-- ==== Sys2Proof/Word.lean ====
section
/-! DEFINITION. The widths of the ADSP-2100 family's computational units (R8, R10, R18, R64). -/

namespace Sys2Proof

/-- A register, operand or bus value of sixteen bits: "Every device in the ADSP-2100 family is a
16-bit, fixed-point machine" (R1, R2). -/
abbrev Word := BitVec 16

/-- One instruction word of program memory (R64). -/
abbrev ProgWord := BitVec 24

/-- A value of the MAC's adder/subtracter and of MR (R18, R142). -/
abbrev Accum := BitVec 40

/-- The 32-bit product P (R137) and the shifter's 32-bit output (R172). -/
abbrev Long := BitVec 32

end Sys2Proof
end

