-- ==== Sys2Proof/Config.lean ====
section
/-! DEFINITION. The parameters the spec leaves to the family member or to the reader (R8, 92_eei_decisions.md section 1).

They are plain data that State carries and that no instruction writes, so that a statement about
every state is a statement about every value of every parameter (R63 asks for exactly this of
`uu_extend`). `astat_layout` is fixed at the spec's own value and stands in Machine/Flags.lean;
`reset_state` is `State.reset` of Machine/State.lean; BIASRND is a field of State. -/

namespace Sys2Proof

/-- The parameter `uu_extend` of R8 and R141: how an unsigned x unsigned product is extended to 40
bits. -/
inductive UuExtend where
  /-- The literal reading of "sign-extended"; the spec's default. -/
  | sign
  /-- The value-preserving reading. -/
  | zero
  deriving DecidableEq, Repr

/-- What a family member and the reader of the spec fix once for a whole run (R8). -/
structure Config where
  /-- `has_biasrnd`: the member is an ADSP-217x, ADSP-218x or ADSP-21msp58/59 (R32). -/
  hasBiasrnd : Bool
  /-- `uu_extend` (R141, D10). -/
  uuExtend : UuExtend
  deriving DecidableEq, Repr

/-- The parameters of `State.reset`: `uu_extend` at the spec's default (R8, log 5). DESIGN CHOICE (log 3):
a member that has BIASRND, since the spec gives `has_biasrnd` no default. -/
def Config.default : Config where
  hasBiasrnd := true
  uuExtend := .sign

end Sys2Proof
end

