-- ==== Sys2Proof/Syntax.lean ====
section
/-! DEFINITION. The operations of the computational units as data: the operand sets of R24 and R56, one
constructor of `Instr` per row of spec/opcode_table.json, and the terms of R56 as functions onto those
constructors. -/

namespace Sys2Proof

/-- The ALU's X input sources (R24). -/
inductive AluX where
  | ax0 | ax1 | ar | mr0 | mr1 | mr2 | sr0 | sr1
  deriving DecidableEq, Repr

/-- The ALU's Y input sources (R24). -/
inductive AluY where
  | ay0 | ay1 | af
  deriving DecidableEq, Repr

/-- The ALU's output registers (R24, R84). -/
inductive AluDst where
  | ar | af
  deriving DecidableEq, Repr

/-- The multiplier's X input sources (R24). -/
inductive MacX where
  | mx0 | mx1 | ar | mr0 | mr1 | mr2 | sr0 | sr1
  deriving DecidableEq, Repr

/-- The multiplier's Y input sources (R24). -/
inductive MacY where
  | my0 | my1 | mf
  deriving DecidableEq, Repr

/-- The MAC's output registers (R24, R145). -/
inductive MacDst where
  | mr | mf
  deriving DecidableEq, Repr

/-- The shifter's input sources (R24, R171). -/
inductive ShX where
  | si | ar | mr0 | mr1 | mr2 | sr0 | sr1
  deriving DecidableEq, Repr

/-- The HI/LO reference of a shift (R174). -/
inductive HiLo where
  | hi | lo
  deriving DecidableEq, Repr

/-- The data registers a bus transfer can name: the DREG group of R65, in the order of its codes. -/
inductive DReg where
  | ax0 | ax1 | mx0 | mx1 | ay0 | ay1 | my0 | my1 | si | se | ar | mr0 | mr1 | mr2 | sr0 | sr1
  deriving DecidableEq, Repr

/-- The status group of R65, as far as this spec has it. -/
inductive SReg where
  | astat | mstat | sb
  deriving DecidableEq, Repr

/-- Every register of the units by name. AF and MF are named only so that a term that moves one of
them can be written down and refused (R45, R57). -/
inductive Reg where
  | data (r : DReg)
  | status (r : SReg)
  | af
  | mf
  deriving DecidableEq, Repr

/-- The eight flags of ASTAT (R28, R29). -/
inductive Flag where
  | AZ | AN | AV | AC | AS | AQ | MV | SS
  deriving DecidableEq, Repr

/-- The instructions: one constructor per row of spec/opcode_table.json, in the table's order. -/
inductive Instr where
  /-- `ALU_PASSX`: `dst = PASS x;` (R98). -/
  | aluPassx (dst : AluDst) (x : AluX)
  /-- `ALU_NEGX`: `dst = -x;` (R94). -/
  | aluNegx (dst : AluDst) (x : AluX)
  /-- `ALU_CLEAR`: `dst = PASS 0;` (R100). -/
  | aluClear (dst : AluDst)
  /-- `MAC_CLEAR`: `dst = 0;` (R152). -/
  | macClear (dst : MacDst)
  /-- `ALU_ADD`: `dst = x + y;` (R88). -/
  | aluAdd (dst : AluDst) (x : AluX) (y : AluY)
  /-- `ALU_ADDC`: `dst = x + y + C;` (R89). -/
  | aluAddc (dst : AluDst) (x : AluX) (y : AluY)
  /-- `ALU_SUB`: `dst = x - y;` (R90). -/
  | aluSub (dst : AluDst) (x : AluX) (y : AluY)
  /-- `ALU_SUBB`: `dst = x - y + C - 1;` (R91). -/
  | aluSubb (dst : AluDst) (x : AluX) (y : AluY)
  /-- `ALU_RSUB`: `dst = y - x;` (R92). -/
  | aluRsub (dst : AluDst) (x : AluX) (y : AluY)
  /-- `ALU_RSUBB`: `dst = y - x + C - 1;` (R93). -/
  | aluRsubb (dst : AluDst) (x : AluX) (y : AluY)
  /-- `ALU_NEGY`: `dst = -y;` (R95). -/
  | aluNegy (dst : AluDst) (y : AluY)
  /-- `ALU_INCY`: `dst = y + 1;` (R96). -/
  | aluIncy (dst : AluDst) (y : AluY)
  /-- `ALU_DECY`: `dst = y - 1;` (R97). -/
  | aluDecy (dst : AluDst) (y : AluY)
  /-- `ALU_PASSY`: `dst = PASS y;` (R99). -/
  | aluPassy (dst : AluDst) (y : AluY)
  /-- `ALU_ABSX`: `dst = ABS x;` (R101). -/
  | aluAbsx (dst : AluDst) (x : AluX)
  /-- `ALU_AND`: `dst = x AND y;` (R102). -/
  | aluAnd (dst : AluDst) (x : AluX) (y : AluY)
  /-- `ALU_OR`: `dst = x OR y;` (R103). -/
  | aluOr (dst : AluDst) (x : AluX) (y : AluY)
  /-- `ALU_XOR`: `dst = x XOR y;` (R104). -/
  | aluXor (dst : AluDst) (x : AluX) (y : AluY)
  /-- `ALU_NOTX`: `dst = NOT x;` (R105). -/
  | aluNotx (dst : AluDst) (x : AluX)
  /-- `ALU_NOTY`: `dst = NOT y;` (R106). -/
  | aluNoty (dst : AluDst) (y : AluY)
  /-- `DIVS`: `DIVS y, x;` (R121). -/
  | divs (y : AluY) (x : AluX)
  /-- `DIVQ`: `DIVQ x;` (R122). -/
  | divq (x : AluX)
  /-- `MAC_MUL_SS`: `dst = x * y (SS);` (R146). -/
  | macMulSs (dst : MacDst) (x : MacX) (y : MacY)
  /-- `MAC_MUL_SU`: `dst = x * y (SU);` (R146). -/
  | macMulSu (dst : MacDst) (x : MacX) (y : MacY)
  /-- `MAC_MUL_US`: `dst = x * y (US);` (R146). -/
  | macMulUs (dst : MacDst) (x : MacX) (y : MacY)
  /-- `MAC_MUL_UU`: `dst = x * y (UU);` (R146). -/
  | macMulUu (dst : MacDst) (x : MacX) (y : MacY)
  /-- `MAC_MUL_RND`: `dst = x * y (RND);` (R147). -/
  | macMulRnd (dst : MacDst) (x : MacX) (y : MacY)
  /-- `MAC_ADD_SS`: `dst = MR + x * y (SS);` (R148). -/
  | macAddSs (dst : MacDst) (x : MacX) (y : MacY)
  /-- `MAC_ADD_SU`: `dst = MR + x * y (SU);` (R148). -/
  | macAddSu (dst : MacDst) (x : MacX) (y : MacY)
  /-- `MAC_ADD_US`: `dst = MR + x * y (US);` (R148). -/
  | macAddUs (dst : MacDst) (x : MacX) (y : MacY)
  /-- `MAC_ADD_UU`: `dst = MR + x * y (UU);` (R148). -/
  | macAddUu (dst : MacDst) (x : MacX) (y : MacY)
  /-- `MAC_ADD_RND`: `dst = MR + x * y (RND);` (R149). -/
  | macAddRnd (dst : MacDst) (x : MacX) (y : MacY)
  /-- `MAC_SUB_SS`: `dst = MR - x * y (SS);` (R150). -/
  | macSubSs (dst : MacDst) (x : MacX) (y : MacY)
  /-- `MAC_SUB_SU`: `dst = MR - x * y (SU);` (R150). -/
  | macSubSu (dst : MacDst) (x : MacX) (y : MacY)
  /-- `MAC_SUB_US`: `dst = MR - x * y (US);` (R150). -/
  | macSubUs (dst : MacDst) (x : MacX) (y : MacY)
  /-- `MAC_SUB_UU`: `dst = MR - x * y (UU);` (R150). -/
  | macSubUu (dst : MacDst) (x : MacX) (y : MacY)
  /-- `MAC_SUB_RND`: `dst = MR - x * y (RND);` (R151). -/
  | macSubRnd (dst : MacDst) (x : MacX) (y : MacY)
  /-- `SAT_MR`: `IF MV SAT MR;` (R157). -/
  | satMr
  /-- `LSHIFT_HI`: `SR = LSHIFT x (HI);` (R186). -/
  | lshiftHi (x : ShX)
  /-- `LSHIFT_HI_OR`: `SR = SR OR LSHIFT x (HI);` (R186). -/
  | lshiftHiOr (x : ShX)
  /-- `LSHIFT_LO`: `SR = LSHIFT x (LO);` (R186). -/
  | lshiftLo (x : ShX)
  /-- `LSHIFT_LO_OR`: `SR = SR OR LSHIFT x (LO);` (R186). -/
  | lshiftLoOr (x : ShX)
  /-- `ASHIFT_HI`: `SR = ASHIFT x (HI);` (R184). -/
  | ashiftHi (x : ShX)
  /-- `ASHIFT_HI_OR`: `SR = SR OR ASHIFT x (HI);` (R184). -/
  | ashiftHiOr (x : ShX)
  /-- `ASHIFT_LO`: `SR = ASHIFT x (LO);` (R184). -/
  | ashiftLo (x : ShX)
  /-- `ASHIFT_LO_OR`: `SR = SR OR ASHIFT x (LO);` (R184). -/
  | ashiftLoOr (x : ShX)
  /-- `NORM_HI`: `SR = NORM x (HI);` (R190). -/
  | normHi (x : ShX)
  /-- `NORM_HI_OR`: `SR = SR OR NORM x (HI);` (R190). -/
  | normHiOr (x : ShX)
  /-- `NORM_LO`: `SR = NORM x (LO);` (R190). -/
  | normLo (x : ShX)
  /-- `NORM_LO_OR`: `SR = SR OR NORM x (LO);` (R190). -/
  | normLoOr (x : ShX)
  /-- `EXP_HI`: `SE = EXP x (HI);` (R192). -/
  | expHi (x : ShX)
  /-- `EXP_HIX`: `SE = EXP x (HIX);` (R193). -/
  | expHix (x : ShX)
  /-- `EXP_LO`: `SE = EXP x (LO);` (R194). -/
  | expLo (x : ShX)
  /-- `EXPADJ`: `SB = EXPADJ x;` (R195). -/
  | expadj (x : ShX)
  /-- `LSHIFT_HI_IMM`: `SR = LSHIFT x BY exp (HI);` (R187). -/
  | lshiftHiImm (x : ShX) (exp : BitVec 8)
  /-- `LSHIFT_HI_OR_IMM`: `SR = SR OR LSHIFT x BY exp (HI);` (R187). -/
  | lshiftHiOrImm (x : ShX) (exp : BitVec 8)
  /-- `LSHIFT_LO_IMM`: `SR = LSHIFT x BY exp (LO);` (R187). -/
  | lshiftLoImm (x : ShX) (exp : BitVec 8)
  /-- `LSHIFT_LO_OR_IMM`: `SR = SR OR LSHIFT x BY exp (LO);` (R187). -/
  | lshiftLoOrImm (x : ShX) (exp : BitVec 8)
  /-- `ASHIFT_HI_IMM`: `SR = ASHIFT x BY exp (HI);` (R185). -/
  | ashiftHiImm (x : ShX) (exp : BitVec 8)
  /-- `ASHIFT_HI_OR_IMM`: `SR = SR OR ASHIFT x BY exp (HI);` (R185). -/
  | ashiftHiOrImm (x : ShX) (exp : BitVec 8)
  /-- `ASHIFT_LO_IMM`: `SR = ASHIFT x BY exp (LO);` (R185). -/
  | ashiftLoImm (x : ShX) (exp : BitVec 8)
  /-- `ASHIFT_LO_OR_IMM`: `SR = SR OR ASHIFT x BY exp (LO);` (R185). -/
  | ashiftLoOrImm (x : ShX) (exp : BitVec 8)
  /-- `LOADIMM_DREG`: `r = v;` (R210). -/
  | loadimmDreg (r : DReg) (v : Word)
  /-- `LOADIMM_SREG`: `r = v;` (R210). -/
  | loadimmSreg (r : SReg) (v : Word)
  /-- `MOVE`: `d = s;` (R211). -/
  | move (dst : Reg) (src : Reg)
  deriving DecidableEq, Repr

/-! ## The terms of R56 -/

/-- The nineteen standard ALU functions (R56). -/
inductive AluFn where
  | add | addc | sub | subb | rsub | rsubb | negx | negy | incy | decy
  | passx | passy | clear | absx | and | or | xor | notx | noty
  deriving DecidableEq, Repr

/-- The MAC's three multiply functions (R56, R138). -/
inductive MacFn where
  | mul | add | sub
  deriving DecidableEq, Repr

/-- The MAC's input formats (R136). -/
inductive MacFmt where
  | ss | su | us | uu | rnd
  deriving DecidableEq, Repr

/-- The two shift instructions that take their code from SE or from an immediate (R56). -/
inductive ShiftKind where
  | ashift | lshift
  deriving DecidableEq, Repr

/-- The states of the exponent detector (R178, R179, R180). -/
inductive ExpMode where
  | hi | hix | lo
  deriving DecidableEq, Repr

/-- The term `Alu fn dst x y`; a function that uses one port ignores the other operand (R56). -/
def aluTerm (fn : AluFn) (dst : AluDst) (x : AluX) (y : AluY) : Instr :=
  match fn with
  | .add => .aluAdd dst x y
  | .addc => .aluAddc dst x y
  | .sub => .aluSub dst x y
  | .subb => .aluSubb dst x y
  | .rsub => .aluRsub dst x y
  | .rsubb => .aluRsubb dst x y
  | .negx => .aluNegx dst x
  | .negy => .aluNegy dst y
  | .incy => .aluIncy dst y
  | .decy => .aluDecy dst y
  | .passx => .aluPassx dst x
  | .passy => .aluPassy dst y
  | .clear => .aluClear dst
  | .absx => .aluAbsx dst x
  | .and => .aluAnd dst x y
  | .or => .aluOr dst x y
  | .xor => .aluXor dst x y
  | .notx => .aluNotx dst x
  | .noty => .aluNoty dst y

/-- The term `Mac fn fmt dst x y` (R56). -/
def macTerm (fn : MacFn) (fmt : MacFmt) (dst : MacDst) (x : MacX) (y : MacY) : Instr :=
  match fn, fmt with
  | .mul, .ss => .macMulSs dst x y
  | .mul, .su => .macMulSu dst x y
  | .mul, .us => .macMulUs dst x y
  | .mul, .uu => .macMulUu dst x y
  | .mul, .rnd => .macMulRnd dst x y
  | .add, .ss => .macAddSs dst x y
  | .add, .su => .macAddSu dst x y
  | .add, .us => .macAddUs dst x y
  | .add, .uu => .macAddUu dst x y
  | .add, .rnd => .macAddRnd dst x y
  | .sub, .ss => .macSubSs dst x y
  | .sub, .su => .macSubSu dst x y
  | .sub, .us => .macSubUs dst x y
  | .sub, .uu => .macSubUu dst x y
  | .sub, .rnd => .macSubRnd dst x y

/-- The term `Shift kind or hl x`, whose control code is SE (R56). -/
def shiftTerm (kind : ShiftKind) (orSr : Bool) (hl : HiLo) (x : ShX) : Instr :=
  match kind, hl, orSr with
  | .lshift, .hi, false => .lshiftHi x
  | .lshift, .hi, true => .lshiftHiOr x
  | .lshift, .lo, false => .lshiftLo x
  | .lshift, .lo, true => .lshiftLoOr x
  | .ashift, .hi, false => .ashiftHi x
  | .ashift, .hi, true => .ashiftHiOr x
  | .ashift, .lo, false => .ashiftLo x
  | .ashift, .lo, true => .ashiftLoOr x

/-- The term `ShiftImm kind or hl x exp` (R56). -/
def shiftImmTerm (kind : ShiftKind) (orSr : Bool) (hl : HiLo) (x : ShX) (exp : BitVec 8) : Instr :=
  match kind, hl, orSr with
  | .lshift, .hi, false => .lshiftHiImm x exp
  | .lshift, .hi, true => .lshiftHiOrImm x exp
  | .lshift, .lo, false => .lshiftLoImm x exp
  | .lshift, .lo, true => .lshiftLoOrImm x exp
  | .ashift, .hi, false => .ashiftHiImm x exp
  | .ashift, .hi, true => .ashiftHiOrImm x exp
  | .ashift, .lo, false => .ashiftLoImm x exp
  | .ashift, .lo, true => .ashiftLoOrImm x exp

/-- The term `Norm or hl x`, whose control code is the negated SE (R56). -/
def normTerm (orSr : Bool) (hl : HiLo) (x : ShX) : Instr :=
  match hl, orSr with
  | .hi, false => .normHi x
  | .hi, true => .normHiOr x
  | .lo, false => .normLo x
  | .lo, true => .normLoOr x

/-- The term `Exp mode x` (R56). -/
def expTerm (mode : ExpMode) (x : ShX) : Instr :=
  match mode with
  | .hi => .expHi x
  | .hix => .expHix x
  | .lo => .expLo x

/-- Why the decoder refuses a word: the names R71 gives. A refusal is safe: the step stops and claims
nothing about the word. -/
inductive DecodeRefusal where
  /-- A type 9 or type 16 word whose COND is not 1111: "conditional form". -/
  | conditionalForm
  /-- A type 9 word with Yop = 11 that is no row of R66: "Y = 0 form not in source". -/
  | yZeroForm
  /-- A type 9 word with AMF = 00000: "no operation not in source". -/
  | noOperation
  /-- Every other word the table does not match: "not in source". -/
  | notInSource
  deriving DecidableEq, Repr

end Sys2Proof
end

