-- ==== Sys2Proof/WellFormed.lean ====
section
/-! DEFINITION. Which values of `Instr` are operations: the term-level bounds of R57 (`isTerm`) and,
besides them, what the word of LOADIMM_SREG can hold (`hasWord`, R70). -/

namespace Sys2Proof

/-- A register `DmdLoad` may name: `LoadableReg` of R56, every register but AF and MF (R45). -/
def Reg.loadable : Reg → Bool
  | .data _ => true
  | .status _ => true
  | .af => false
  | .mf => false

/-- A register `DmdRead` may name: `ReadableReg` of R56, every register but AF, MF and MSTAT. -/
def Reg.readable : Reg → Bool
  | .data _ => true
  | .status .astat => true
  | .status .sb => true
  | .status .mstat => false
  | .af => false
  | .mf => false

/-- The term spells an operation of the spec: R57 (a) for DIVS, (c) and the sets of R56 for MOVE; R57
(b) holds by the type of the immediate. -/
def Instr.isTerm : Instr → Bool
  | .divs y _ => y != .ay0
  | .move dst src => dst.loadable && src.readable
  | _ => true

/-- The term has a 24-bit word: the constant of LOADIMM_SREG is the sign extension of fourteen bits
(R70); every other operand fills its field. -/
def Instr.hasWord : Instr → Bool
  | .loadimmSreg _ v => (v.truncate 14).signExtend 16 == v
  | _ => true

/-- An operation of the spec that also has a word. -/
def Instr.wellFormed (i : Instr) : Bool := i.isTerm && i.hasWord

end Sys2Proof
end

