-- ==== Sys2Proof/Decode.lean ====
section
/-! DEFINITION. From 24-bit words to instructions and back (R64 to R72). PRESUMED (log 8): every bit
pattern here is the spec's own general knowledge of the family (R55, R64), checked against no source.

The decoder is total on 24-bit words and refuses by the names of R71; the encoder stands after it and
is written from the same tables. -/

namespace Sys2Proof

/-! ## Field codes (R65) -/

/-- `Xop` of the ALU formats. -/
def aluXOf (c : BitVec 3) : AluX :=
  match c.toNat with
  | 0 => .ax0 | 1 => .ax1 | 2 => .ar | 3 => .mr0 | 4 => .mr1 | 5 => .mr2 | 6 => .sr0 | _ => .sr1

/-- `Yop` of the ALU formats; 11 is the constant zero, which is no operand of a term. -/
def aluYOf (c : BitVec 2) : Option AluY :=
  match c.toNat with
  | 0 => some .ay0 | 1 => some .ay1 | 2 => some .af | _ => none

/-- `Z` of an ALU word. -/
def aluDstOf (z : BitVec 1) : AluDst := if z = 0 then .ar else .af

/-- `Xop` of the MAC format. -/
def macXOf (c : BitVec 3) : MacX :=
  match c.toNat with
  | 0 => .mx0 | 1 => .mx1 | 2 => .ar | 3 => .mr0 | 4 => .mr1 | 5 => .mr2 | 6 => .sr0 | _ => .sr1

/-- `Yop` of the MAC format; 11 is the constant zero. -/
def macYOf (c : BitVec 2) : Option MacY :=
  match c.toNat with
  | 0 => some .my0 | 1 => some .my1 | 2 => some .mf | _ => none

/-- `Z` of a MAC word. -/
def macDstOf (z : BitVec 1) : MacDst := if z = 0 then .mr else .mf

/-- `Xop` of the shifter formats; 001 is not valid. -/
def shXOf (c : BitVec 3) : Option ShX :=
  match c.toNat with
  | 0 => some .si | 1 => none | 2 => some .ar | 3 => some .mr0 | 4 => some .mr1 | 5 => some .mr2
  | 6 => some .sr0 | _ => some .sr1

/-- `DREG`. -/
def dregOf (c : BitVec 4) : DReg :=
  match c.toNat with
  | 0 => .ax0 | 1 => .ax1 | 2 => .mx0 | 3 => .mx1 | 4 => .ay0 | 5 => .ay1 | 6 => .my0 | 7 => .my1
  | 8 => .si | 9 => .se | 10 => .ar | 11 => .mr0 | 12 => .mr1 | 13 => .mr2 | 14 => .sr0 | _ => .sr1

/-- `REG` in the status group. -/
def sregOf (c : BitVec 4) : Option SReg :=
  match c.toNat with
  | 0 => some .astat | 1 => some .mstat | 6 => some .sb | _ => none

/-- A register by its group and code: 00 the DREG group, 11 the status group, 01 and 10 out of scope. -/
def regOf (rgp : BitVec 2) (c : BitVec 4) : Option Reg :=
  match rgp.toNat with
  | 0 => some (.data (dregOf c))
  | 3 => (sregOf c).map .status
  | _ => none

/-! ## The formats (R66 to R70) -/

/-- A type 9 word's function field with a Y register: the rows of R66 without Yop = 11. The functions
that use one port have their unused operand field coded as zero. -/
def decodeAmf (z : BitVec 1) (amf : BitVec 5) (yc : BitVec 2) (ay : AluY) (my : MacY) (xc : BitVec 3) :
    Except DecodeRefusal Instr :=
  let ad := aluDstOf z
  let md := macDstOf z
  let ax := aluXOf xc
  let mx := macXOf xc
  let yOnly (i : Instr) : Except DecodeRefusal Instr := if xc = 0 then .ok i else .error .notInSource
  let xOnly (i : Instr) : Except DecodeRefusal Instr := if yc = 0 then .ok i else .error .notInSource
  match amf.toNat with
  | 0 => .error .noOperation
  | 1 => .ok (.macMulRnd md mx my)
  | 2 => .ok (.macAddRnd md mx my)
  | 3 => .ok (.macSubRnd md mx my)
  | 4 => .ok (.macMulSs md mx my)
  | 5 => .ok (.macMulSu md mx my)
  | 6 => .ok (.macMulUs md mx my)
  | 7 => .ok (.macMulUu md mx my)
  | 8 => .ok (.macAddSs md mx my)
  | 9 => .ok (.macAddSu md mx my)
  | 10 => .ok (.macAddUs md mx my)
  | 11 => .ok (.macAddUu md mx my)
  | 12 => .ok (.macSubSs md mx my)
  | 13 => .ok (.macSubSu md mx my)
  | 14 => .ok (.macSubUs md mx my)
  | 15 => .ok (.macSubUu md mx my)
  | 16 => yOnly (.aluPassy ad ay)
  | 17 => yOnly (.aluIncy ad ay)
  | 18 => .ok (.aluAddc ad ax ay)
  | 19 => .ok (.aluAdd ad ax ay)
  | 20 => yOnly (.aluNoty ad ay)
  | 21 => yOnly (.aluNegy ad ay)
  | 22 => .ok (.aluSubb ad ax ay)
  | 23 => .ok (.aluSub ad ax ay)
  | 24 => yOnly (.aluDecy ad ay)
  | 25 => .ok (.aluRsub ad ax ay)
  | 26 => .ok (.aluRsubb ad ax ay)
  | 27 => xOnly (.aluNotx ad ax)
  | 28 => .ok (.aluAnd ad ax ay)
  | 29 => .ok (.aluOr ad ax ay)
  | 30 => .ok (.aluXor ad ax ay)
  | _ => xOnly (.aluAbsx ad ax)

/-- A type 9 word's function field with Yop = 11, the constant zero: R66's right column, and the
refusal of every other function (R71). DESIGN CHOICE (log 14): AMF = 00000 with Yop = 11 falls under two names of
R71, "no operation" and "Y = 0 form"; the model answers the first. For a clear whose Xop is not zero R71 has no
name; the model answers "not in source". -/
def decodeAmfZero (z : BitVec 1) (amf : BitVec 5) (xc : BitVec 3) : Except DecodeRefusal Instr :=
  match amf.toNat with
  | 0 => .error .noOperation
  | 4 => if xc = 0 then .ok (.macClear (macDstOf z)) else .error .notInSource
  | 16 => if xc = 0 then .ok (.aluClear (aluDstOf z)) else .error .notInSource
  | 19 => .ok (.aluPassx (aluDstOf z) (aluXOf xc))
  | 25 => .ok (.aluNegx (aluDstOf z) (aluXOf xc))
  | _ => .error .yZeroForm

/-- "Type 9": an ALU or MAC operation (R66). -/
def decodeType9 (w : ProgWord) : Except DecodeRefusal Instr :=
  let z := w.extractLsb' 18 1
  let amf := w.extractLsb' 13 5
  let yc := w.extractLsb' 11 2
  let xc := w.extractLsb' 8 3
  if w.extractLsb' 4 4 ≠ 0 then .error .notInSource
  else if w.extractLsb' 0 4 ≠ 0b1111 then .error .conditionalForm
  else match aluYOf yc, macYOf yc with
    | some ay, some my => decodeAmf z amf yc ay my xc
    | _, _ => decodeAmfZero z amf xc

/-- "Type 16": a shift, normalize or exponent operation, by its SF field (R69). -/
def decodeType16 (w : ProgWord) : Except DecodeRefusal Instr :=
  if w.extractLsb' 15 1 ≠ 0 then .error .notInSource
  else if w.extractLsb' 4 4 ≠ 0 then .error .notInSource
  else if w.extractLsb' 0 4 ≠ 0b1111 then .error .conditionalForm
  else match shXOf (w.extractLsb' 8 3) with
    | none => .error .notInSource
    | some x =>
      match (w.extractLsb' 11 4).toNat with
      | 0 => .ok (.lshiftHi x)
      | 1 => .ok (.lshiftHiOr x)
      | 2 => .ok (.lshiftLo x)
      | 3 => .ok (.lshiftLoOr x)
      | 4 => .ok (.ashiftHi x)
      | 5 => .ok (.ashiftHiOr x)
      | 6 => .ok (.ashiftLo x)
      | 7 => .ok (.ashiftLoOr x)
      | 8 => .ok (.normHi x)
      | 9 => .ok (.normHiOr x)
      | 10 => .ok (.normLo x)
      | 11 => .ok (.normLoOr x)
      | 12 => .ok (.expHi x)
      | 13 => .ok (.expHix x)
      | 14 => .ok (.expLo x)
      | _ => .ok (.expadj x)

/-- "Type 15": an immediate shift; SF is 0000 to 0111 only (R69, R71). -/
def decodeType15 (w : ProgWord) : Except DecodeRefusal Instr :=
  let e := w.extractLsb' 0 8
  if w.extractLsb' 15 1 ≠ 0 then .error .notInSource
  else match shXOf (w.extractLsb' 8 3) with
    | none => .error .notInSource
    | some x =>
      match (w.extractLsb' 11 4).toNat with
      | 0 => .ok (.lshiftHiImm x e)
      | 1 => .ok (.lshiftHiOrImm x e)
      | 2 => .ok (.lshiftLoImm x e)
      | 3 => .ok (.lshiftLoOrImm x e)
      | 4 => .ok (.ashiftHiImm x e)
      | 5 => .ok (.ashiftHiOrImm x e)
      | 6 => .ok (.ashiftLoImm x e)
      | 7 => .ok (.ashiftLoOrImm x e)
      | _ => .error .notInSource

/-- "Type 24": DIVS, whose Yop is 01 or 10 (R67). -/
def decodeType24 (w : ProgWord) : Except DecodeRefusal Instr :=
  if w.extractLsb' 13 3 ≠ 0 ∨ w.extractLsb' 0 8 ≠ 0 then .error .notInSource
  else match (w.extractLsb' 11 2).toNat with
    | 1 => .ok (.divs .ay1 (aluXOf (w.extractLsb' 8 3)))
    | 2 => .ok (.divs .af (aluXOf (w.extractLsb' 8 3)))
    | _ => .error .notInSource

/-- "Type 23": DIVQ (R67). -/
def decodeType23 (w : ProgWord) : Except DecodeRefusal Instr :=
  if w.extractLsb' 11 5 ≠ 0 ∨ w.extractLsb' 0 8 ≠ 0 then .error .notInSource
  else .ok (.divq (aluXOf (w.extractLsb' 8 3)))

/-- "Type 6": load a data register with a 16-bit constant (R70). -/
def decodeType6 (w : ProgWord) : Except DecodeRefusal Instr :=
  .ok (.loadimmDreg (dregOf (w.extractLsb' 0 4)) (w.extractLsb' 4 16))

/-- "Type 7": load a status-group register with a 14-bit constant, sign-extended (R70). -/
def decodeType7 (w : ProgWord) : Except DecodeRefusal Instr :=
  match sregOf (w.extractLsb' 0 4) with
  | none => .error .notInSource
  | some r => .ok (.loadimmSreg r ((w.extractLsb' 4 14).signExtend 16))

/-- "Type 17": internal register move; MSTAT is no source in this spec (R70, R56). -/
def decodeType17 (w : ProgWord) : Except DecodeRefusal Instr :=
  match regOf (w.extractLsb' 10 2) (w.extractLsb' 4 4), regOf (w.extractLsb' 8 2) (w.extractLsb' 0 4) with
  | some d, some s => if s.readable then .ok (.move d s) else .error .notInSource
  | _, _ => .error .notInSource

/-- The decoder: an instruction, or the name under which the word is refused (R71). -/
def decode (w : ProgWord) : Except DecodeRefusal Instr :=
  if w.extractLsb' 20 4 = 0b0100 then decodeType6 w
  else if w.extractLsb' 18 6 = 0b001111 then decodeType7 w
  else if w.extractLsb' 19 5 = 0b00100 then decodeType9 w
  else match (w.extractLsb' 16 8).toNat with
    | 0x05 => if w.extractLsb' 0 16 = 0 then .ok .satMr else .error .notInSource
    | 0x0D => if w.extractLsb' 12 4 = 0 then decodeType17 w else .error .notInSource
    | 0x0E => decodeType16 w
    | 0x0F => decodeType15 w
    | 0x60 => decodeType24 w
    | 0x71 => decodeType23 w
    | _ => .error .notInSource

/-- The instruction the decoder reads from a table row's bits `w`, numbered as the table numbers them:
one 24-bit word is the whole instruction (R64), so the bits at 24 and above must be 0. -/
def decodeTableWord (nbits w : Nat) : Option Instr :=
  if nbits ≤ 24 ∧ w < 2 ^ nbits then
    match decode (BitVec.ofNat 24 w) with
    | .ok i => some i
    | .error _ => none
  else none

/-! ## The encoder -/

/-- The code of an ALU X operand (R65). -/
def aluXCode : AluX → BitVec 3
  | .ax0 => 0 | .ax1 => 1 | .ar => 2 | .mr0 => 3 | .mr1 => 4 | .mr2 => 5 | .sr0 => 6 | .sr1 => 7

/-- The code of an ALU Y operand (R65). -/
def aluYCode : AluY → BitVec 2
  | .ay0 => 0 | .ay1 => 1 | .af => 2

/-- The Z bit of an ALU destination (R65). -/
def aluDstCode : AluDst → BitVec 1
  | .ar => 0 | .af => 1

/-- The code of a MAC X operand (R65). -/
def macXCode : MacX → BitVec 3
  | .mx0 => 0 | .mx1 => 1 | .ar => 2 | .mr0 => 3 | .mr1 => 4 | .mr2 => 5 | .sr0 => 6 | .sr1 => 7

/-- The code of a MAC Y operand (R65). -/
def macYCode : MacY → BitVec 2
  | .my0 => 0 | .my1 => 1 | .mf => 2

/-- The Z bit of a MAC destination (R65). -/
def macDstCode : MacDst → BitVec 1
  | .mr => 0 | .mf => 1

/-- The code of a shifter input (R65). -/
def shXCode : ShX → BitVec 3
  | .si => 0 | .ar => 2 | .mr0 => 3 | .mr1 => 4 | .mr2 => 5 | .sr0 => 6 | .sr1 => 7

/-- The code of a data register (R65). -/
def dregCode : DReg → BitVec 4
  | .ax0 => 0 | .ax1 => 1 | .mx0 => 2 | .mx1 => 3 | .ay0 => 4 | .ay1 => 5 | .my0 => 6 | .my1 => 7
  | .si => 8 | .se => 9 | .ar => 10 | .mr0 => 11 | .mr1 => 12 | .mr2 => 13 | .sr0 => 14 | .sr1 => 15

/-- The code of a status-group register (R65). -/
def sregCode : SReg → BitVec 4
  | .astat => 0 | .mstat => 1 | .sb => 6

/-- Group and code of a register (R65). AF and MF have none; group 01, which the decoder refuses,
stands in for them. -/
def regCode : Reg → BitVec 2 × BitVec 4
  | .data r => (0b00, dregCode r)
  | .status r => (0b11, sregCode r)
  | .af => (0b01, 0)
  | .mf => (0b01, 0)

/-- A type 9 word from its fields (R66); COND is 1111 (R71). -/
def type9 (z : BitVec 1) (amf : BitVec 5) (yc : BitVec 2) (xc : BitVec 3) : ProgWord :=
  0b00100#5 ++ z ++ amf ++ yc ++ xc ++ 0x0F#8

/-- A type 9 word of an ALU function of two operands. -/
def aluWord (amf : BitVec 5) (d : AluDst) (x : AluX) (y : AluY) : ProgWord :=
  type9 (aluDstCode d) amf (aluYCode y) (aluXCode x)

/-- A type 9 word of a MAC function. -/
def macWord (amf : BitVec 5) (d : MacDst) (x : MacX) (y : MacY) : ProgWord :=
  type9 (macDstCode d) amf (macYCode y) (macXCode x)

/-- A type 16 word from its fields (R69); COND is 1111 (R71). -/
def type16 (sf : BitVec 4) (x : ShX) : ProgWord :=
  0x0E#8 ++ 0#1 ++ sf ++ shXCode x ++ 0x0F#8

/-- A type 15 word from its fields (R69). -/
def type15 (sf : BitVec 4) (x : ShX) (exp : BitVec 8) : ProgWord :=
  0x0F#8 ++ 0#1 ++ sf ++ shXCode x ++ exp

/-- The word of a well-formed instruction (R66 to R70). Of an instruction that is not well-formed it is
some word that stands for nothing. -/
def encode : Instr → ProgWord
  | .aluPassx d x => type9 (aluDstCode d) 0b10011 0b11 (aluXCode x)
  | .aluNegx d x => type9 (aluDstCode d) 0b11001 0b11 (aluXCode x)
  | .aluClear d => type9 (aluDstCode d) 0b10000 0b11 0
  | .macClear d => type9 (macDstCode d) 0b00100 0b11 0
  | .aluAdd d x y => aluWord 0b10011 d x y
  | .aluAddc d x y => aluWord 0b10010 d x y
  | .aluSub d x y => aluWord 0b10111 d x y
  | .aluSubb d x y => aluWord 0b10110 d x y
  | .aluRsub d x y => aluWord 0b11001 d x y
  | .aluRsubb d x y => aluWord 0b11010 d x y
  | .aluNegy d y => type9 (aluDstCode d) 0b10101 (aluYCode y) 0
  | .aluIncy d y => type9 (aluDstCode d) 0b10001 (aluYCode y) 0
  | .aluDecy d y => type9 (aluDstCode d) 0b11000 (aluYCode y) 0
  | .aluPassy d y => type9 (aluDstCode d) 0b10000 (aluYCode y) 0
  | .aluAbsx d x => type9 (aluDstCode d) 0b11111 0 (aluXCode x)
  | .aluAnd d x y => aluWord 0b11100 d x y
  | .aluOr d x y => aluWord 0b11101 d x y
  | .aluXor d x y => aluWord 0b11110 d x y
  | .aluNotx d x => type9 (aluDstCode d) 0b11011 0 (aluXCode x)
  | .aluNoty d y => type9 (aluDstCode d) 0b10100 (aluYCode y) 0
  | .divs y x => 0x60#8 ++ 0#3 ++ aluYCode y ++ aluXCode x ++ 0#8
  | .divq x => 0x71#8 ++ 0#5 ++ aluXCode x ++ 0#8
  | .macMulSs d x y => macWord 0b00100 d x y
  | .macMulSu d x y => macWord 0b00101 d x y
  | .macMulUs d x y => macWord 0b00110 d x y
  | .macMulUu d x y => macWord 0b00111 d x y
  | .macMulRnd d x y => macWord 0b00001 d x y
  | .macAddSs d x y => macWord 0b01000 d x y
  | .macAddSu d x y => macWord 0b01001 d x y
  | .macAddUs d x y => macWord 0b01010 d x y
  | .macAddUu d x y => macWord 0b01011 d x y
  | .macAddRnd d x y => macWord 0b00010 d x y
  | .macSubSs d x y => macWord 0b01100 d x y
  | .macSubSu d x y => macWord 0b01101 d x y
  | .macSubUs d x y => macWord 0b01110 d x y
  | .macSubUu d x y => macWord 0b01111 d x y
  | .macSubRnd d x y => macWord 0b00011 d x y
  | .satMr => 0x050000
  | .lshiftHi x => type16 0b0000 x
  | .lshiftHiOr x => type16 0b0001 x
  | .lshiftLo x => type16 0b0010 x
  | .lshiftLoOr x => type16 0b0011 x
  | .ashiftHi x => type16 0b0100 x
  | .ashiftHiOr x => type16 0b0101 x
  | .ashiftLo x => type16 0b0110 x
  | .ashiftLoOr x => type16 0b0111 x
  | .normHi x => type16 0b1000 x
  | .normHiOr x => type16 0b1001 x
  | .normLo x => type16 0b1010 x
  | .normLoOr x => type16 0b1011 x
  | .expHi x => type16 0b1100 x
  | .expHix x => type16 0b1101 x
  | .expLo x => type16 0b1110 x
  | .expadj x => type16 0b1111 x
  | .lshiftHiImm x e => type15 0b0000 x e
  | .lshiftHiOrImm x e => type15 0b0001 x e
  | .lshiftLoImm x e => type15 0b0010 x e
  | .lshiftLoOrImm x e => type15 0b0011 x e
  | .ashiftHiImm x e => type15 0b0100 x e
  | .ashiftHiOrImm x e => type15 0b0101 x e
  | .ashiftLoImm x e => type15 0b0110 x e
  | .ashiftLoOrImm x e => type15 0b0111 x e
  | .loadimmDreg r v => 0b0100#4 ++ v ++ dregCode r
  | .loadimmSreg r v => 0b001111#6 ++ v.truncate 14 ++ sregCode r
  | .move d s =>
    0x0D0#12 ++ (regCode d).1 ++ (regCode s).1 ++ (regCode d).2 ++ (regCode s).2

end Sys2Proof
end

