-- ==== Sys2Proof/Machine/State.lean ====
section
/-! DEFINITION. The state of the machine: everything R10 to R35 give the computational units, the
run's position and operation list (R34), and the parameters of R8; why a step can stop; reset. -/

namespace Sys2Proof.Machine

/-- One bank of the computational registers (R10 to R23); R25: "Every register of rules R10 to R23
exists twice." MR is held as its three sections and SR as its two halves (R18, R21). -/
structure Bank where
  /-- ALU X input registers (R11). -/
  ax0 : Word
  ax1 : Word
  /-- ALU Y input registers (R12). -/
  ay0 : Word
  ay1 : Word
  /-- ALU result register (R13). -/
  ar : Word
  /-- ALU feedback register (R14). -/
  af : Word
  /-- Multiplier X input registers (R16). -/
  mx0 : Word
  mx1 : Word
  /-- Multiplier Y input registers (R17). -/
  my0 : Word
  my1 : Word
  /-- MR[15:0] (R18). -/
  mr0 : Word
  /-- MR[31:16] (R18). -/
  mr1 : Word
  /-- MR[39:32] (R18). -/
  mr2 : BitVec 8
  /-- Multiplier feedback register (R19). -/
  mf : Word
  /-- Shifter input register (R20). -/
  si : Word
  /-- SR[15:0] (R21). -/
  sr0 : Word
  /-- SR[31:16] (R21). -/
  sr1 : Word
  /-- Shifter exponent register, twos-complement 8.0 (R22). -/
  se : BitVec 8
  /-- Shifter block exponent register, twos-complement 5.0 (R23). -/
  sb : BitVec 5
  deriving DecidableEq, Repr

/-- The arithmetic status register: eight flags, addressed by name (R28, R29, R30). -/
structure Astat where
  AZ : Bool
  AN : Bool
  AV : Bool
  AC : Bool
  AS : Bool
  AQ : Bool
  MV : Bool
  SS : Bool
  deriving DecidableEq, Repr

/-- The mode status register: the four bits the spec gives it, as the four Booleans of R31. -/
structure Mstat where
  /-- Bit 0, SEC_REG: the secondary bank is selected (R26). -/
  secReg : Bool
  /-- Bit 2, AV_LATCH: ALU overflow latch mode (R85). -/
  avLatch : Bool
  /-- Bit 3, AR_SAT: AR saturation mode (R86). -/
  arSat : Bool
  /-- Bit 4, M_MODE: MAC integer mode (R140). -/
  mMode : Bool
  deriving DecidableEq, Repr

/-- The state of the machine. -/
structure State where
  /-- The primary bank (R25). -/
  primary : Bank
  /-- The secondary (alternate) bank (R25). -/
  secondary : Bank
  /-- ASTAT; one copy for both banks (R27). -/
  astat : Astat
  /-- MSTAT; one copy (R27). -/
  mstat : Mstat
  /-- The BIASRND bit, set by the environment before a run; it counts only when the member has it
  (R32). -/
  biasrnd : Bool
  /-- The parameters `has_biasrnd` and `uu_extend` (R8). -/
  config : Config
  /-- The operation list of the run, as words (R34, R54; log 2). -/
  prog : List ProgWord
  /-- The position in the operation list (R34). -/
  idx : Nat
  deriving DecidableEq, Repr

/-- Why a run stops. No operation of the spec raises an exception (R220), so the one reason is the end
of the run. -/
inductive Fault where
  /-- Raised by the step when `idx` is not below the length of the operation list: "the run ends when
  `idx` equals the length of the list" (R34, U17). It is the normal end of a run, a stuck state. Safe:
  no state is claimed after it. -/
  | endOfProgram
  deriving DecidableEq, Repr

/-- What the model refuses: in the spec's words "the spec gives the operation no meaning; the model must
refuse, not pick a value" (00_scope.md section 6). -/
inductive Refusal where
  /-- An instruction without a meaning yet; raised only by `exec`'s refused arms, of which there are
  none. Safe. -/
  | notModelled (mnemonic : String)
  /-- Raised by the step on a word the decoder refuses, with the decoder's reason (R71, U7). Safe. -/
  | undecodable (why : DecodeRefusal)
  /-- Raised by a MOVE or a bus transfer that loads or reads a register without that access: AF, MF,
  or MSTAT as a source (R45, R57, U6, U13). Such a term has no word. Safe. -/
  | noBusAccess (r : Reg)
  /-- Raised by a DIVS whose Y operand is AY0 (R57, R120). Such a term has no word. Safe. -/
  | divsUpperHalf
  /-- Raised by NORM with SE = −128, whose negation is no 8-bit control code (R181, D14). Safe. -/
  | normControlCode
  /-- Raised by a multifunction cycle in which two writers target one register or flag (R47, D28).
  No instruction raises it. Safe. -/
  | twoWriters
  deriving DecidableEq, Repr

/-- What a step or a meaning answers. -/
abbrev Result := Host.Outcome State Fault Refusal

/-- A bank right after reset. DESIGN CHOICE (log 1): the spec gives no reset value (R35); every
register is zero here. -/
def Bank.reset : Bank where
  ax0 := 0
  ax1 := 0
  ay0 := 0
  ay1 := 0
  ar := 0
  af := 0
  mx0 := 0
  mx1 := 0
  my0 := 0
  my1 := 0
  mr0 := 0
  mr1 := 0
  mr2 := 0
  mf := 0
  si := 0
  sr0 := 0
  sr1 := 0
  se := 0
  sb := 0

/-- ASTAT right after reset. PRESUMED (log 1): the family clears it (G9). -/
def Astat.reset : Astat where
  AZ := false
  AN := false
  AV := false
  AC := false
  AS := false
  AQ := false
  MV := false
  SS := false

/-- MSTAT right after reset. PRESUMED (log 1): the family clears it (G9). -/
def Mstat.reset : Mstat where
  secReg := false
  avLatch := false
  arSat := false
  mMode := false

/-- The machine right after reset: `idx` is 0 (R34, R35) and no operation list is loaded (log 2); the
other values are the model's (log 1, log 3), the spec leaving them unspecified (R35, R235). -/
def State.reset : State where
  primary := Bank.reset
  secondary := Bank.reset
  astat := Astat.reset
  mstat := Mstat.reset
  biasrnd := false
  config := Config.default
  prog := []
  idx := 0

end Sys2Proof.Machine
end

