-- ==== Sys2Proof/Machine/Flags.lean ====
section
/-! DEFINITION. Flag computations: the adder's carry and overflow (R82), AZ and AN (R83), the AV latch
(R85), MV (R144), and ASTAT and MSTAT as bus words (R30, R31). -/

namespace Sys2Proof.Machine

/-! ## The ALU's output -/

/-- What an ALU function produces: "Every one of the nineteen functions produces a triple `(R, c, v)`"
(R83). -/
structure AluOut where
  /-- The ALU output R, before saturation. -/
  r : Word
  /-- The carry of this operation. -/
  c : Bool
  /-- The overflow of this operation. -/
  v : Bool
  deriving DecidableEq, Repr

/-- The adder `Add16` (R82): sum, carry out of bit 15, and the exclusive-OR of the carries out of bits
15 and 14. -/
def add16 (a b : Word) (cin : Bool) : AluOut :=
  let c := decide (65536 ≤ a.toNat + b.toNat + cin.toNat)
  let c' := decide (32768 ≤ a.toNat % 32768 + b.toNat % 32768 + cin.toNat)
  { r := BitVec.ofNat 16 (a.toNat + b.toNat + cin.toNat), c := c, v := c ^^ c' }

/-- The output of a function that does not use the adder: `c = 0, v = 0` (R83, D5). -/
def noCarry (r : Word) : AluOut := { r := r, c := false, v := false }

/-- The value AR receives: Table 2.2 in AR saturation mode, else the ALU output (R86). -/
def saturate (arSat : Bool) (o : AluOut) : Word :=
  if arSat && o.v then (if o.c then 0x8000 else 0x7FFF) else o.r

/-- The flags after an ALU function: AZ and AN of the saturated value in saturation mode (R83, R87),
AV with its latch (R85), AC; AS only where the function gives it (ABS). -/
def aluFlags (m : Mstat) (o : AluOut) (asBit : Option Bool) (f : Astat) : Astat :=
  { f with
    AZ := saturate m.arSat o == 0
    AN := (saturate m.arSat o).msb
    AV := if m.avLatch then f.AV || o.v else o.v
    AC := o.c
    AS := asBit.getD f.AS }

/-! ## The MAC's flag -/

/-- MV: "set if the upper nine bits of MR are not all ones or all zeros" (R144). -/
def mvOf (r : Accum) : Bool :=
  r.extractLsb' 31 9 != 0 && r.extractLsb' 31 9 != BitVec.allOnes 9

/-! ## ASTAT and MSTAT on the bus -/

/-- The position of each flag in the ASTAT word: the parameter `astat_layout` at the spec's value.
PRESUMED (log 4): general knowledge (R30, D17). -/
def astatBit : Flag → Nat
  | .AZ => 0 | .AN => 1 | .AV => 2 | .AC => 3 | .AS => 4 | .AQ => 5 | .MV => 6 | .SS => 7

/-- A DMD load of ASTAT: all eight flags from bits 7..0, bits 15..8 ignored (R30, D25). -/
def astatOfWord (v : Word) : Astat where
  AZ := v.getLsbD (astatBit .AZ)
  AN := v.getLsbD (astatBit .AN)
  AV := v.getLsbD (astatBit .AV)
  AC := v.getLsbD (astatBit .AC)
  AS := v.getLsbD (astatBit .AS)
  AQ := v.getLsbD (astatBit .AQ)
  MV := v.getLsbD (astatBit .MV)
  SS := v.getLsbD (astatBit .SS)

/-- One flag at its place in the ASTAT word. -/
def flagWord (f : Flag) (b : Bool) : Word := if b then 1#16 <<< astatBit f else 0

/-- A DMD read of ASTAT: the eight flags zero-extended to 16 bits (R30, D25). -/
def wordOfAstat (a : Astat) : Word :=
  flagWord .AZ a.AZ ||| flagWord .AN a.AN ||| flagWord .AV a.AV ||| flagWord .AC a.AC |||
    flagWord .AS a.AS ||| flagWord .AQ a.AQ ||| flagWord .MV a.MV ||| flagWord .SS a.SS

/-- A DMD load of MSTAT: the four modes from bits 0, 2, 3 and 4, the other bits ignored (R31, U13). -/
def mstatOfWord (v : Word) : Mstat where
  secReg := v.getLsbD 0
  avLatch := v.getLsbD 2
  arSat := v.getLsbD 3
  mMode := v.getLsbD 4

end Sys2Proof.Machine
end

