-- ==== Sys2Proof/Machine/Ops.lean ====
section
/-! DEFINITION. The named operations over the state: the selected bank (R26), MR and SR as whole
registers (R18, R21), loads and reads over the DMD bus (R42 to R45), fetch and the run's position (R34).

Taking an exception and returning from one have no definition here because the hardware has neither: "No
operation of this spec raises a synchronous exception" (R220), there are no interrupts (R222), and trap
entry and return are "not in the sources" (R224, R225). -/

namespace Sys2Proof.Machine

/-! ## Banks -/

/-- The bank a given value of MSTAT[0] selects (R26). -/
def State.bankAt (sec : Bool) (s : State) : Bank := if sec then s.secondary else s.primary

/-- Replaces the bank a given value of MSTAT[0] selects; the other keeps its value (R26). -/
def State.setBankAt (sec : Bool) (b : Bank) (s : State) : State :=
  { s with
    primary := if sec then s.primary else b
    secondary := if sec then b else s.secondary }

/-- The bank MSTAT[0] selects at the start of the cycle: every `reg[r]` of the spec reads it (R26). -/
def State.bank (s : State) : Bank := s.bankAt s.mstat.secReg

/-- Replaces the selected bank: every `reg[r] <- v` of the spec (R26). -/
def State.setBank (b : Bank) (s : State) : State := s.setBankAt s.mstat.secReg b

/-! ## MR and SR -/

/-- `MR = {MR2, MR1, MR0}` (R18). -/
def Bank.mr (b : Bank) : Accum := b.mr2 ++ b.mr1 ++ b.mr0

/-- All 40 bits of MR written from a result (R145). -/
def Bank.setMr (r : Accum) (b : Bank) : Bank :=
  { b with mr2 := r.extractLsb' 32 8, mr1 := r.extractLsb' 16 16, mr0 := r.extractLsb' 0 16 }

/-- `SR = {SR1, SR0}` (R21). -/
def Bank.sr (b : Bank) : Long := b.sr1 ++ b.sr0

/-- Both halves of SR written from a result (R176). -/
def Bank.setSr (r : Long) (b : Bank) : Bank :=
  { b with sr1 := r.extractLsb' 16 16, sr0 := r.extractLsb' 0 16 }

/-! ## The DMD bus -/

/-- MR2 after a DMD load of MR1: every bit the sign bit of the value loaded (R43). -/
def mr2OfMr1 (v : Word) : BitVec 8 := if v.msb then 0xFF else 0x00

/-- `DmdLoad` of a data register: 16-bit registers take the whole value (R42), MR1 sets MR2 beside
itself (R43), MR2 and SE take the low 8 bits (R44). -/
def Bank.load (r : DReg) (v : Word) (b : Bank) : Bank :=
  match r with
  | .ax0 => { b with ax0 := v }
  | .ax1 => { b with ax1 := v }
  | .mx0 => { b with mx0 := v }
  | .mx1 => { b with mx1 := v }
  | .ay0 => { b with ay0 := v }
  | .ay1 => { b with ay1 := v }
  | .my0 => { b with my0 := v }
  | .my1 => { b with my1 := v }
  | .si => { b with si := v }
  | .se => { b with se := v.truncate 8 }
  | .ar => { b with ar := v }
  | .mr0 => { b with mr0 := v }
  | .mr1 => { b with mr1 := v, mr2 := mr2OfMr1 v }
  | .mr2 => { b with mr2 := v.truncate 8 }
  | .sr0 => { b with sr0 := v }
  | .sr1 => { b with sr1 := v }

/-- `DmdRead` of a data register: MR2 and SE sign-extended (R44), the others as they are (R42). -/
def Bank.read (r : DReg) (b : Bank) : Word :=
  match r with
  | .ax0 => b.ax0
  | .ax1 => b.ax1
  | .mx0 => b.mx0
  | .mx1 => b.mx1
  | .ay0 => b.ay0
  | .ay1 => b.ay1
  | .my0 => b.my0
  | .my1 => b.my1
  | .si => b.si
  | .se => b.se.signExtend 16
  | .ar => b.ar
  | .mr0 => b.mr0
  | .mr1 => b.mr1
  | .mr2 => b.mr2.signExtend 16
  | .sr0 => b.sr0
  | .sr1 => b.sr1

/-- `DmdLoad` of a data register in the bank a given MSTAT[0] selects (R26, R42 to R44). -/
def State.loadData (sec : Bool) (r : DReg) (v : Word) (s : State) : State :=
  s.setBankAt sec ((s.bankAt sec).load r v)

/-- `DmdLoad` of a status-group register: ASTAT (R30), MSTAT (R31), SB from the low 5 bits (R44). -/
def State.loadStatus (sec : Bool) (r : SReg) (v : Word) (s : State) : State :=
  match r with
  | .astat => { s with astat := astatOfWord v }
  | .mstat => { s with mstat := mstatOfWord v }
  | .sb => s.setBankAt sec { s.bankAt sec with sb := v.truncate 5 }

/-- `DmdLoad(r, v)` with the bank of a given MSTAT[0]; AF and MF have no bus access (R45). -/
def State.dmdLoadAt (sec : Bool) (r : Reg) (v : Word) (s : State) : Option State :=
  match r with
  | .data r => some (s.loadData sec r v)
  | .status r => some (s.loadStatus sec r v)
  | .af => none
  | .mf => none

/-- `DmdLoad(r, v)` (R42 to R45). -/
def State.dmdLoad (r : Reg) (v : Word) (s : State) : Option State := s.dmdLoadAt s.mstat.secReg r v

/-- `DmdRead(r)` (R42 to R45); AF and MF have no bus access, and a read of MSTAT is no operation of the
spec (R45, U13). -/
def State.dmdRead (r : Reg) (s : State) : Option Word :=
  match r with
  | .data r => some (s.bank.read r)
  | .status .astat => some (wordOfAstat s.astat)
  | .status .mstat => none
  | .status .sb => some (s.bank.sb.signExtend 16)
  | .af => none
  | .mf => none

/-! ## Modes set outside the units -/

/-- The BIASRND the rounding rule reads: constant 0 on a member without it (R32). -/
def State.biasedRounding (s : State) : Bool := s.config.hasBiasrnd && s.biasrnd

/-! ## The run -/

/-- The word at the run's position, if the run has not ended (R34). -/
def State.fetch (s : State) : Option ProgWord := s.prog[s.idx]?

/-- "every operation of this spec leaves `idx + 1`" (R34). -/
def State.advance (s : State) : State := { s with idx := s.idx + 1 }

/-- The operation list with a word at the run's position; positions before it that the list does not
reach are filled with the word 0, which is no instruction. -/
def State.putWord (w : ProgWord) (s : State) : State :=
  { s with prog := (s.prog ++ List.replicate (s.idx + 1 - s.prog.length) 0).set s.idx w }

end Sys2Proof.Machine
end

