-- ==== Sys2Proof/Machine/Operands.lean ====
section
/-! DEFINITION. Operand reads: every source of every port of R24, as the 16-bit value it held at the start
of the cycle, MR2 sign-extended (R60, R80, R135, R171). -/

namespace Sys2Proof.Machine

/-- MR2 on the R bus: sign-extended to 16 bits (R24, R44). -/
def Bank.mr2Word (b : Bank) : Word := b.mr2.signExtend 16

/-- The ALU's X port (R80). -/
def Bank.aluX (x : AluX) (b : Bank) : Word :=
  match x with
  | .ax0 => b.ax0
  | .ax1 => b.ax1
  | .ar => b.ar
  | .mr0 => b.mr0
  | .mr1 => b.mr1
  | .mr2 => b.mr2Word
  | .sr0 => b.sr0
  | .sr1 => b.sr1

/-- The ALU's Y port (R80). -/
def Bank.aluY (y : AluY) (b : Bank) : Word :=
  match y with
  | .ay0 => b.ay0
  | .ay1 => b.ay1
  | .af => b.af

/-- The multiplier's X port (R135). -/
def Bank.macX (x : MacX) (b : Bank) : Word :=
  match x with
  | .mx0 => b.mx0
  | .mx1 => b.mx1
  | .ar => b.ar
  | .mr0 => b.mr0
  | .mr1 => b.mr1
  | .mr2 => b.mr2Word
  | .sr0 => b.sr0
  | .sr1 => b.sr1

/-- The multiplier's Y port (R135). -/
def Bank.macY (y : MacY) (b : Bank) : Word :=
  match y with
  | .my0 => b.my0
  | .my1 => b.my1
  | .mf => b.mf

/-- The shifter input IN (R171). -/
def Bank.shX (x : ShX) (b : Bank) : Word :=
  match x with
  | .si => b.si
  | .ar => b.ar
  | .mr0 => b.mr0
  | .mr1 => b.mr1
  | .mr2 => b.mr2Word
  | .sr0 => b.sr0
  | .sr1 => b.sr1

end Sys2Proof.Machine
end

