-- ==== Sys2Proof/Machine/Alu.lean ====
section
/-! DEFINITION. The ALU's nineteen standard functions (40_alu.md): one shared step, which writes the
destination and the flags (R83 to R87), and one meaning per function (R88 to R106). -/

namespace Sys2Proof.Machine

/-- The destination of an ALU function: AR takes the saturated value, AF the wrapped one (R84, R86). -/
def Bank.setAlu (dst : AluDst) (arSat : Bool) (o : AluOut) (b : Bank) : Bank :=
  match dst with
  | .ar => { b with ar := saturate arSat o }
  | .af => { b with af := o.r }

/-- What every ALU function does with its triple `(R, c, v)`: destination, flags, position (R83, R84).
`asBit` is what the function writes to AS, if anything. -/
def State.aluStep (dst : AluDst) (o : AluOut) (asBit : Option Bool) (s : State) : State :=
  let t := s.setBank (s.bank.setAlu dst s.mstat.arSat o)
  { t with astat := aluFlags s.mstat o asBit s.astat }.advance

/-- ABS: the negated operand on the adder when it is negative, else the operand (R101, D6). -/
def absOut (x : Word) : AluOut := if x.msb then add16 0 (~~~x) true else noCarry x

/-- `dst = x + y;` (R88). -/
def execAluAdd (dst : AluDst) (x : AluX) (y : AluY) (s : State) : Result :=
  .next (s.aluStep dst (add16 (s.bank.aluX x) (s.bank.aluY y) false) none)

/-- `dst = x + y + C;` (R89). -/
def execAluAddc (dst : AluDst) (x : AluX) (y : AluY) (s : State) : Result :=
  .next (s.aluStep dst (add16 (s.bank.aluX x) (s.bank.aluY y) s.astat.AC) none)

/-- `dst = x - y;` (R90). -/
def execAluSub (dst : AluDst) (x : AluX) (y : AluY) (s : State) : Result :=
  .next (s.aluStep dst (add16 (s.bank.aluX x) (~~~s.bank.aluY y) true) none)

/-- `dst = x - y + C - 1;` (R91). -/
def execAluSubb (dst : AluDst) (x : AluX) (y : AluY) (s : State) : Result :=
  .next (s.aluStep dst (add16 (s.bank.aluX x) (~~~s.bank.aluY y) s.astat.AC) none)

/-- `dst = y - x;` (R92). -/
def execAluRsub (dst : AluDst) (x : AluX) (y : AluY) (s : State) : Result :=
  .next (s.aluStep dst (add16 (s.bank.aluY y) (~~~s.bank.aluX x) true) none)

/-- `dst = y - x + C - 1;` (R93). -/
def execAluRsubb (dst : AluDst) (x : AluX) (y : AluY) (s : State) : Result :=
  .next (s.aluStep dst (add16 (s.bank.aluY y) (~~~s.bank.aluX x) s.astat.AC) none)

/-- `dst = -x;` (R94). -/
def execAluNegx (dst : AluDst) (x : AluX) (s : State) : Result :=
  .next (s.aluStep dst (add16 0 (~~~s.bank.aluX x) true) none)

/-- `dst = -y;` (R95). -/
def execAluNegy (dst : AluDst) (y : AluY) (s : State) : Result :=
  .next (s.aluStep dst (add16 0 (~~~s.bank.aluY y) true) none)

/-- `dst = y + 1;` (R96). -/
def execAluIncy (dst : AluDst) (y : AluY) (s : State) : Result :=
  .next (s.aluStep dst (add16 (s.bank.aluY y) 0 true) none)

/-- `dst = y - 1;` (R97). -/
def execAluDecy (dst : AluDst) (y : AluY) (s : State) : Result :=
  .next (s.aluStep dst (add16 (s.bank.aluY y) 0xFFFF false) none)

/-- `dst = PASS x;` (R98). -/
def execAluPassx (dst : AluDst) (x : AluX) (s : State) : Result :=
  .next (s.aluStep dst (noCarry (s.bank.aluX x)) none)

/-- `dst = PASS y;` (R99). -/
def execAluPassy (dst : AluDst) (y : AluY) (s : State) : Result :=
  .next (s.aluStep dst (noCarry (s.bank.aluY y)) none)

/-- `dst = PASS 0;` (R100). -/
def execAluClear (dst : AluDst) (s : State) : Result :=
  .next (s.aluStep dst (noCarry 0) none)

/-- `dst = ABS x;`, the one function that writes AS (R101). -/
def execAluAbsx (dst : AluDst) (x : AluX) (s : State) : Result :=
  .next (s.aluStep dst (absOut (s.bank.aluX x)) (some (s.bank.aluX x).msb))

/-- `dst = x AND y;` (R102). -/
def execAluAnd (dst : AluDst) (x : AluX) (y : AluY) (s : State) : Result :=
  .next (s.aluStep dst (noCarry (s.bank.aluX x &&& s.bank.aluY y)) none)

/-- `dst = x OR y;` (R103). -/
def execAluOr (dst : AluDst) (x : AluX) (y : AluY) (s : State) : Result :=
  .next (s.aluStep dst (noCarry (s.bank.aluX x ||| s.bank.aluY y)) none)

/-- `dst = x XOR y;` (R104). -/
def execAluXor (dst : AluDst) (x : AluX) (y : AluY) (s : State) : Result :=
  .next (s.aluStep dst (noCarry (s.bank.aluX x ^^^ s.bank.aluY y)) none)

/-- `dst = NOT x;` (R105). -/
def execAluNotx (dst : AluDst) (x : AluX) (s : State) : Result :=
  .next (s.aluStep dst (noCarry (~~~s.bank.aluX x)) none)

/-- `dst = NOT y;` (R106). -/
def execAluNoty (dst : AluDst) (y : AluY) (s : State) : Result :=
  .next (s.aluStep dst (noCarry (~~~s.bank.aluY y)) none)

end Sys2Proof.Machine
end

