-- ==== Sys2Proof/Machine/Divide.lean ====
section
/-! DEFINITION. The divide primitives DIVS and DIVQ (41_alu_divide.md): the shift of the AF-AY0 pair they
share and one meaning each. Both write AF, AY0 and AQ and nothing else (R128). -/

namespace Sys2Proof.Machine

/-- What a divide primitive computes: the ALU output, the bit for AQ and the bit shifted into AY0. -/
structure DivOut where
  /-- The ALU output R. -/
  r : Word
  /-- The exclusive-OR of the divisor's and the (pass or sum) output's sign bits: the new AQ. -/
  q : Bool
  /-- The bit that enters AY0. -/
  bit : Bool
  deriving DecidableEq, Repr

/-- DIVS: the upper dividend half passes; the quotient sign enters AY0 (R121). -/
def divsOut (x y : Word) : DivOut :=
  let q := x.msb ^^ y.msb
  { r := y, q := q, bit := q }

/-- DIVQ: AF plus or minus the divisor by AQ; the inverted quotient bit enters AY0 (R122). -/
def divqOut (aq : Bool) (x af : Word) : DivOut :=
  let r := if aq then af + x else af - x
  let q := x.msb ^^ r.msb
  { r := r, q := q, bit := !q }

/-- AF after a divide primitive: "The MSB of AY0 shifts into the LSB position of AF, and the upper 15
bits of AF are loaded with the lower 15 R bits from the ALU" (R121). -/
def divAf (r ay0 : Word) : Word := r.extractLsb' 0 15 ++ ay0.extractLsb' 15 1

/-- AY0 after a divide primitive: shifted left one place, a bit entering at the LSB (R121, R122). -/
def divAy0 (ay0 : Word) (bit : Bool) : Word := ay0.extractLsb' 0 15 ++ BitVec.ofBool bit

/-- What both primitives do with their output: AF, AY0, AQ, position (R121, R122, R128). -/
def State.divStep (o : DivOut) (s : State) : State :=
  let b := s.bank
  let t := s.setBank { b with af := divAf o.r b.ay0, ay0 := divAy0 b.ay0 o.bit }
  { t with astat := { s.astat with AQ := o.q } }.advance

/-- `DIVS y, x;` with y one of AY1 and AF (R121, R57). -/
def execDivs (y : AluY) (x : AluX) (s : State) : Result :=
  if y = .ay0 then .refused .divsUpperHalf
  else .next (s.divStep (divsOut (s.bank.aluX x) (s.bank.aluY y)))

/-- `DIVQ x;` (R122). -/
def execDivq (x : AluX) (s : State) : Result :=
  .next (s.divStep (divqOut s.astat.AQ (s.bank.aluX x) s.bank.af))

end Sys2Proof.Machine
end

