-- ==== Sys2Proof/Machine/Mac.lean ====
section
/-! DEFINITION. The multiplier/accumulator (42_mac.md): the datapath (R135 to R145), one shared step, and one
meaning per function and format (R146 to R152), with the saturation instruction (R157). -/

namespace Sys2Proof.Machine

/-! ## Datapath -/

/-- An operand as the integer its format says (R136). -/
def operandInt (signed : Bool) (w : Word) : Int := if signed then w.toInt else w.toNat

/-- The X input is signed in the formats SS, SU and RND (R136; RND by D11). -/
def MacFmt.xSigned : MacFmt → Bool
  | .ss => true
  | .su => true
  | .us => false
  | .uu => false
  | .rnd => true

/-- The Y input is signed in the formats SS, US and RND (R136; RND by D11). -/
def MacFmt.ySigned : MacFmt → Bool
  | .ss => true
  | .su => false
  | .us => true
  | .uu => false
  | .rnd => true

/-- The 32-bit product P (R137). -/
def product (fmt : MacFmt) (x y : Word) : Long :=
  BitVec.ofInt 32 (operandInt (MacFmt.xSigned fmt) x * operandInt (MacFmt.ySigned fmt) y)

/-- The extension E of P to 40 bits; only UU depends on the parameter `uu_extend` (R141). -/
def extendProduct (u : UuExtend) (fmt : MacFmt) (p : Long) : Accum :=
  match fmt, u with
  | .uu, .zero => p.zeroExtend 40
  | .uu, .sign => p.signExtend 40
  | _, _ => p.signExtend 40

/-- The format adjustment: one place left in fractional mode, none in integer mode (R140). -/
def adjustProduct (mMode : Bool) (e : Accum) : Accum := if mMode then e else e <<< 1

/-- The adder/subtracter, modulo 2^40 (R142, R158). -/
def macSum (fn : MacFn) (mr p40 : Accum) : Accum :=
  match fn with
  | .mul => p40
  | .add => mr + p40
  | .sub => mr - p40

/-- Rounding at the boundary between bits 15 and 16; at the midway point bit 16 is forced to zero
unless rounding is biased (R143). -/
def roundAccum (biased : Bool) (r0 : Accum) : Accum :=
  let r := r0 + 0x8000
  if r0.extractLsb' 0 16 = 0x8000 ∧ biased = false then r &&& ~~~0x10000 else r

/-- The final 40-bit result: rounded only in the RND forms (R143). -/
def macFinal (fmt : MacFmt) (biased : Bool) (r0 : Accum) : Accum :=
  match fmt with
  | .rnd => roundAccum biased r0
  | .ss => r0
  | .su => r0
  | .us => r0
  | .uu => r0

/-- The result R of a multiply function in a state (R135 to R143). -/
def State.macResult (fn : MacFn) (fmt : MacFmt) (x : MacX) (y : MacY) (s : State) : Accum :=
  let e := extendProduct s.config.uuExtend fmt (product fmt (s.bank.macX x) (s.bank.macY y))
  macFinal fmt s.biasedRounding (macSum fn s.bank.mr (adjustProduct s.mstat.mMode e))

/-- The destination of a MAC result: all of MR, or bits 31..16 to MF (R145). -/
def Bank.setMac (dst : MacDst) (r : Accum) (b : Bank) : Bank :=
  match dst with
  | .mr => b.setMr r
  | .mf => { b with mf := r.extractLsb' 16 16 }

/-- What every multiply and clear does with its result R: destination, MV, position (R144, R145). -/
def State.macWrite (dst : MacDst) (r : Accum) (s : State) : State :=
  let t := s.setBank (s.bank.setMac dst r)
  { t with astat := { s.astat with MV := mvOf r } }.advance

/-- `MacStep(fn, fmt, dst, x, y)` (42_mac.md section 2). -/
def State.macStep (fn : MacFn) (fmt : MacFmt) (dst : MacDst) (x : MacX) (y : MacY) (s : State) : State :=
  s.macWrite dst (s.macResult fn fmt x y)

/-! ## The functions -/

/-- `dst = x * y (SS);` (R146). -/
def execMacMulSs (dst : MacDst) (x : MacX) (y : MacY) (s : State) : Result :=
  .next (s.macStep .mul .ss dst x y)

/-- `dst = x * y (SU);` (R146). -/
def execMacMulSu (dst : MacDst) (x : MacX) (y : MacY) (s : State) : Result :=
  .next (s.macStep .mul .su dst x y)

/-- `dst = x * y (US);` (R146). -/
def execMacMulUs (dst : MacDst) (x : MacX) (y : MacY) (s : State) : Result :=
  .next (s.macStep .mul .us dst x y)

/-- `dst = x * y (UU);` (R146). -/
def execMacMulUu (dst : MacDst) (x : MacX) (y : MacY) (s : State) : Result :=
  .next (s.macStep .mul .uu dst x y)

/-- `dst = x * y (RND);` (R147). -/
def execMacMulRnd (dst : MacDst) (x : MacX) (y : MacY) (s : State) : Result :=
  .next (s.macStep .mul .rnd dst x y)

/-- `dst = MR + x * y (SS);` (R148). -/
def execMacAddSs (dst : MacDst) (x : MacX) (y : MacY) (s : State) : Result :=
  .next (s.macStep .add .ss dst x y)

/-- `dst = MR + x * y (SU);` (R148). -/
def execMacAddSu (dst : MacDst) (x : MacX) (y : MacY) (s : State) : Result :=
  .next (s.macStep .add .su dst x y)

/-- `dst = MR + x * y (US);` (R148). -/
def execMacAddUs (dst : MacDst) (x : MacX) (y : MacY) (s : State) : Result :=
  .next (s.macStep .add .us dst x y)

/-- `dst = MR + x * y (UU);` (R148). -/
def execMacAddUu (dst : MacDst) (x : MacX) (y : MacY) (s : State) : Result :=
  .next (s.macStep .add .uu dst x y)

/-- `dst = MR + x * y (RND);` (R149). -/
def execMacAddRnd (dst : MacDst) (x : MacX) (y : MacY) (s : State) : Result :=
  .next (s.macStep .add .rnd dst x y)

/-- `dst = MR - x * y (SS);` (R150). -/
def execMacSubSs (dst : MacDst) (x : MacX) (y : MacY) (s : State) : Result :=
  .next (s.macStep .sub .ss dst x y)

/-- `dst = MR - x * y (SU);` (R150). -/
def execMacSubSu (dst : MacDst) (x : MacX) (y : MacY) (s : State) : Result :=
  .next (s.macStep .sub .su dst x y)

/-- `dst = MR - x * y (US);` (R150). -/
def execMacSubUs (dst : MacDst) (x : MacX) (y : MacY) (s : State) : Result :=
  .next (s.macStep .sub .us dst x y)

/-- `dst = MR - x * y (UU);` (R150). -/
def execMacSubUu (dst : MacDst) (x : MacX) (y : MacY) (s : State) : Result :=
  .next (s.macStep .sub .uu dst x y)

/-- `dst = MR - x * y (RND);` (R151). -/
def execMacSubRnd (dst : MacDst) (x : MacX) (y : MacY) (s : State) : Result :=
  .next (s.macStep .sub .rnd dst x y)

/-- `MR = 0;` and `MF = 0;` (R152). -/
def execMacClear (dst : MacDst) (s : State) : Result :=
  .next (s.macWrite dst 0)

/-! ## Saturation -/

/-- Table 2.3: MR at full scale by the sign in MR2's MSB, when MV is set (R157). -/
def saturateMr (mv : Bool) (mr : Accum) : Accum :=
  if mv then (if mr.msb then 0xFF80000000 else 0x007FFFFFFF) else mr

/-- `IF MV SAT MR;`, which writes no flag (R157). -/
def execSatMr (s : State) : Result :=
  .next (s.setBank (s.bank.setMr (saturateMr s.astat.MV s.bank.mr))).advance

end Sys2Proof.Machine
end

