-- ==== Sys2Proof/Machine/Shifter.lean ====
section
/-! DEFINITION. The barrel shifter (43_shifter.md): the array (R172), OR/PASS logic (R176) and exponent
detector (R178 to R182), one shared step for the shifts, and one meaning per instruction (R184 to
R195). -/

namespace Sys2Proof.Machine

/-! ## Datapath -/

/-- The shifter array in the closed form of R172: the input, continued to the left by the extension
bit, times a power of two, rounded down and cut to 32 bits. -/
def shifterArray (inp : Word) (c : Int) (hl : HiLo) (x : Bool) : Long :=
  let s : Int := c + (if hl = .hi then 16 else 0)
  let v : Int := (inp.toNat : Int) - (if x then 65536 else 0)
  if 0 ≤ s then BitVec.ofInt 32 (v * ((2 ^ s.toNat : Nat) : Int))
  else BitVec.ofInt 32 (v / ((2 ^ (-s).toNat : Nat) : Int))

/-- The extension bit of ASHIFT and LSHIFT (R175). -/
def shiftExt (kind : ShiftKind) (inp : Word) : Bool :=
  match kind with
  | .ashift => inp.msb
  | .lshift => false

/-- The extension bit of NORM: AC in the HI reference, zero in LO (R175). -/
def normExt (hl : HiLo) (ac : Bool) : Bool :=
  match hl with
  | .hi => ac
  | .lo => false

/-- The OR/PASS logic: what SR receives (R176). -/
def orPass (orSr : Bool) (sr a : Long) : Long := if orSr then sr ||| a else a

/-- The number of leading bits of the low k bits of a word that equal a given bit. -/
def leadingEq (w : Word) (b : Bool) : Nat → Nat
  | 0 => 0
  | k + 1 => if w.getLsbD k = b then leadingEq w b k + 1 else 0

/-- The exponent detector in the HI state: the code of the number of leading sign bits (R178). -/
def expHiCode (inp : Word) : Int := 1 - (leadingEq inp inp.msb 16 : Int)

/-- The exponent detector in the HI-extend state: code and sign, by AV (R179). -/
def expHixCode (inp : Word) (av : Bool) : Int × Bool :=
  if av then (1, !inp.msb) else (expHiCode inp, inp.msb)

/-- The exponent detector in the LO state, SS being the sign of the number (R180). -/
def expLoCode (inp : Word) (ss : Bool) : Int := -15 - (leadingEq inp ss 16 : Int)

/-! ## Shared steps -/

/-- What every shift does with its array output: SR by the OR/PASS logic, position; no flag (R176,
D30). -/
def State.shiftWrite (orSr : Bool) (a : Long) (s : State) : State :=
  (s.setBank (s.bank.setSr (orPass orSr s.bank.sr a))).advance

/-- ASHIFT and LSHIFT by a control code (R184 to R187). -/
def State.shiftStep (kind : ShiftKind) (orSr : Bool) (hl : HiLo) (x : ShX) (c : Int) (s : State) : State :=
  s.shiftWrite orSr (shifterArray (s.bank.shX x) c hl (shiftExt kind (s.bank.shX x)))

/-- NORM: the control code is the negated SE; SE = −128 has no control code (R181, R190;
log 6). -/
def State.normStep (orSr : Bool) (hl : HiLo) (x : ShX) (s : State) : Result :=
  if s.bank.se.toInt = -128 then .refused .normControlCode
  else .next (s.shiftWrite orSr
    (shifterArray (s.bank.shX x) (-s.bank.se.toInt) hl (normExt hl s.astat.AC)))

/-- EXP in the HI and HIX states: SE and SS written (R192, R193). -/
def State.expWrite (e : Int) (sign : Bool) (s : State) : State :=
  let t := s.setBank { s.bank with se := BitVec.ofInt 8 e }
  { t with astat := { s.astat with SS := sign } }.advance

/-! ## The instructions -/

/-- `SR = LSHIFT x (HI);` (R186). -/
def execLshiftHi (x : ShX) (s : State) : Result :=
  .next (s.shiftStep .lshift false .hi x s.bank.se.toInt)

/-- `SR = SR OR LSHIFT x (HI);` (R186). -/
def execLshiftHiOr (x : ShX) (s : State) : Result :=
  .next (s.shiftStep .lshift true .hi x s.bank.se.toInt)

/-- `SR = LSHIFT x (LO);` (R186). -/
def execLshiftLo (x : ShX) (s : State) : Result :=
  .next (s.shiftStep .lshift false .lo x s.bank.se.toInt)

/-- `SR = SR OR LSHIFT x (LO);` (R186). -/
def execLshiftLoOr (x : ShX) (s : State) : Result :=
  .next (s.shiftStep .lshift true .lo x s.bank.se.toInt)

/-- `SR = ASHIFT x (HI);` (R184). -/
def execAshiftHi (x : ShX) (s : State) : Result :=
  .next (s.shiftStep .ashift false .hi x s.bank.se.toInt)

/-- `SR = SR OR ASHIFT x (HI);` (R184). -/
def execAshiftHiOr (x : ShX) (s : State) : Result :=
  .next (s.shiftStep .ashift true .hi x s.bank.se.toInt)

/-- `SR = ASHIFT x (LO);` (R184). -/
def execAshiftLo (x : ShX) (s : State) : Result :=
  .next (s.shiftStep .ashift false .lo x s.bank.se.toInt)

/-- `SR = SR OR ASHIFT x (LO);` (R184). -/
def execAshiftLoOr (x : ShX) (s : State) : Result :=
  .next (s.shiftStep .ashift true .lo x s.bank.se.toInt)

/-- `SR = NORM x (HI);` (R190). -/
def execNormHi (x : ShX) (s : State) : Result := s.normStep false .hi x

/-- `SR = SR OR NORM x (HI);` (R190). -/
def execNormHiOr (x : ShX) (s : State) : Result := s.normStep true .hi x

/-- `SR = NORM x (LO);` (R190). -/
def execNormLo (x : ShX) (s : State) : Result := s.normStep false .lo x

/-- `SR = SR OR NORM x (LO);` (R190). -/
def execNormLoOr (x : ShX) (s : State) : Result := s.normStep true .lo x

/-- `SE = EXP x (HI);` (R192). -/
def execExpHi (x : ShX) (s : State) : Result :=
  .next (s.expWrite (expHiCode (s.bank.shX x)) (s.bank.shX x).msb)

/-- `SE = EXP x (HIX);` (R193). -/
def execExpHix (x : ShX) (s : State) : Result :=
  let o := expHixCode (s.bank.shX x) s.astat.AV
  .next (s.expWrite o.1 o.2)

/-- `SE = EXP x (LO);`: SE is loaded only if it holds −15, and no flag is written (R194). -/
def execExpLo (x : ShX) (s : State) : Result :=
  let e := expLoCode (s.bank.shX x) s.astat.SS
  let se := if s.bank.se.toInt = -15 then BitVec.ofInt 8 e else s.bank.se
  .next (s.setBank { s.bank with se := se }).advance

/-- SB after the exponent compare logic: the larger of SB and the exponent detected (R182, R195). -/
def sbAfter (e : Int) (sb : BitVec 5) : BitVec 5 := if sb.toInt < e then BitVec.ofInt 5 e else sb

/-- `SB = EXPADJ x;` (R195). -/
def execExpadj (x : ShX) (s : State) : Result :=
  .next (s.setBank { s.bank with sb := sbAfter (expHiCode (s.bank.shX x)) s.bank.sb }).advance

/-- `SR = LSHIFT x BY exp (HI);` (R187). -/
def execLshiftHiImm (x : ShX) (exp : BitVec 8) (s : State) : Result :=
  .next (s.shiftStep .lshift false .hi x exp.toInt)

/-- `SR = SR OR LSHIFT x BY exp (HI);` (R187). -/
def execLshiftHiOrImm (x : ShX) (exp : BitVec 8) (s : State) : Result :=
  .next (s.shiftStep .lshift true .hi x exp.toInt)

/-- `SR = LSHIFT x BY exp (LO);` (R187). -/
def execLshiftLoImm (x : ShX) (exp : BitVec 8) (s : State) : Result :=
  .next (s.shiftStep .lshift false .lo x exp.toInt)

/-- `SR = SR OR LSHIFT x BY exp (LO);` (R187). -/
def execLshiftLoOrImm (x : ShX) (exp : BitVec 8) (s : State) : Result :=
  .next (s.shiftStep .lshift true .lo x exp.toInt)

/-- `SR = ASHIFT x BY exp (HI);` (R185). -/
def execAshiftHiImm (x : ShX) (exp : BitVec 8) (s : State) : Result :=
  .next (s.shiftStep .ashift false .hi x exp.toInt)

/-- `SR = SR OR ASHIFT x BY exp (HI);` (R185). -/
def execAshiftHiOrImm (x : ShX) (exp : BitVec 8) (s : State) : Result :=
  .next (s.shiftStep .ashift true .hi x exp.toInt)

/-- `SR = ASHIFT x BY exp (LO);` (R185). -/
def execAshiftLoImm (x : ShX) (exp : BitVec 8) (s : State) : Result :=
  .next (s.shiftStep .ashift false .lo x exp.toInt)

/-- `SR = SR OR ASHIFT x BY exp (LO);` (R185). -/
def execAshiftLoOrImm (x : ShX) (exp : BitVec 8) (s : State) : Result :=
  .next (s.shiftStep .ashift true .lo x exp.toInt)

end Sys2Proof.Machine
end

