-- ==== Sys2Proof/Machine/Transfer.lean ====
section
/-! DEFINITION. Register loads and moves (44_register_transfer.md): the constant or the source register's
value is a DMD-bus value, and a load of it is the whole effect (R210, R211). -/

namespace Sys2Proof.Machine

/-- `r = v;` for a data register (R210, types 6 of R70). -/
def execLoadimmDreg (r : DReg) (v : Word) (s : State) : Result :=
  .next (s.loadData s.mstat.secReg r v).advance

/-- `r = v;` for a status-group register (R210, type 7 of R70). -/
def execLoadimmSreg (r : SReg) (v : Word) (s : State) : Result :=
  .next (s.loadStatus s.mstat.secReg r v).advance

/-- `d = s;`: the source is read at the start of the cycle and loaded into the destination (R211); a
register without the access is refused (R45, R57). -/
def execMove (dst src : Reg) (s : State) : Result :=
  match s.dmdRead src with
  | none => .refused (.noBusAccess src)
  | some w =>
    match s.dmdLoad dst w with
    | none => .refused (.noBusAccess dst)
    | some t => .next t.advance

end Sys2Proof.Machine
end

