-- ==== Sys2Proof/Machine/Dispatch.lean ====
section
/-! DEFINITION. One arm per instruction, each one call of its meaning. -/

namespace Sys2Proof.Machine

def exec (i : Instr) (s : State) : Host.Outcome State Fault Refusal :=
  match i with
  | .aluPassx dst x => Sys2Proof.Machine.execAluPassx dst x s
  | .aluNegx dst x => Sys2Proof.Machine.execAluNegx dst x s
  | .aluClear dst => Sys2Proof.Machine.execAluClear dst s
  | .macClear dst => Sys2Proof.Machine.execMacClear dst s
  | .aluAdd dst x y => Sys2Proof.Machine.execAluAdd dst x y s
  | .aluAddc dst x y => Sys2Proof.Machine.execAluAddc dst x y s
  | .aluSub dst x y => Sys2Proof.Machine.execAluSub dst x y s
  | .aluSubb dst x y => Sys2Proof.Machine.execAluSubb dst x y s
  | .aluRsub dst x y => Sys2Proof.Machine.execAluRsub dst x y s
  | .aluRsubb dst x y => Sys2Proof.Machine.execAluRsubb dst x y s
  | .aluNegy dst y => Sys2Proof.Machine.execAluNegy dst y s
  | .aluIncy dst y => Sys2Proof.Machine.execAluIncy dst y s
  | .aluDecy dst y => Sys2Proof.Machine.execAluDecy dst y s
  | .aluPassy dst y => Sys2Proof.Machine.execAluPassy dst y s
  | .aluAbsx dst x => Sys2Proof.Machine.execAluAbsx dst x s
  | .aluAnd dst x y => Sys2Proof.Machine.execAluAnd dst x y s
  | .aluOr dst x y => Sys2Proof.Machine.execAluOr dst x y s
  | .aluXor dst x y => Sys2Proof.Machine.execAluXor dst x y s
  | .aluNotx dst x => Sys2Proof.Machine.execAluNotx dst x s
  | .aluNoty dst y => Sys2Proof.Machine.execAluNoty dst y s
  | .divs y x => Sys2Proof.Machine.execDivs y x s
  | .divq x => Sys2Proof.Machine.execDivq x s
  | .macMulSs dst x y => Sys2Proof.Machine.execMacMulSs dst x y s
  | .macMulSu dst x y => Sys2Proof.Machine.execMacMulSu dst x y s
  | .macMulUs dst x y => Sys2Proof.Machine.execMacMulUs dst x y s
  | .macMulUu dst x y => Sys2Proof.Machine.execMacMulUu dst x y s
  | .macMulRnd dst x y => Sys2Proof.Machine.execMacMulRnd dst x y s
  | .macAddSs dst x y => Sys2Proof.Machine.execMacAddSs dst x y s
  | .macAddSu dst x y => Sys2Proof.Machine.execMacAddSu dst x y s
  | .macAddUs dst x y => Sys2Proof.Machine.execMacAddUs dst x y s
  | .macAddUu dst x y => Sys2Proof.Machine.execMacAddUu dst x y s
  | .macAddRnd dst x y => Sys2Proof.Machine.execMacAddRnd dst x y s
  | .macSubSs dst x y => Sys2Proof.Machine.execMacSubSs dst x y s
  | .macSubSu dst x y => Sys2Proof.Machine.execMacSubSu dst x y s
  | .macSubUs dst x y => Sys2Proof.Machine.execMacSubUs dst x y s
  | .macSubUu dst x y => Sys2Proof.Machine.execMacSubUu dst x y s
  | .macSubRnd dst x y => Sys2Proof.Machine.execMacSubRnd dst x y s
  | .satMr => Sys2Proof.Machine.execSatMr s
  | .lshiftHi x => Sys2Proof.Machine.execLshiftHi x s
  | .lshiftHiOr x => Sys2Proof.Machine.execLshiftHiOr x s
  | .lshiftLo x => Sys2Proof.Machine.execLshiftLo x s
  | .lshiftLoOr x => Sys2Proof.Machine.execLshiftLoOr x s
  | .ashiftHi x => Sys2Proof.Machine.execAshiftHi x s
  | .ashiftHiOr x => Sys2Proof.Machine.execAshiftHiOr x s
  | .ashiftLo x => Sys2Proof.Machine.execAshiftLo x s
  | .ashiftLoOr x => Sys2Proof.Machine.execAshiftLoOr x s
  | .normHi x => Sys2Proof.Machine.execNormHi x s
  | .normHiOr x => Sys2Proof.Machine.execNormHiOr x s
  | .normLo x => Sys2Proof.Machine.execNormLo x s
  | .normLoOr x => Sys2Proof.Machine.execNormLoOr x s
  | .expHi x => Sys2Proof.Machine.execExpHi x s
  | .expHix x => Sys2Proof.Machine.execExpHix x s
  | .expLo x => Sys2Proof.Machine.execExpLo x s
  | .expadj x => Sys2Proof.Machine.execExpadj x s
  | .lshiftHiImm x exp => Sys2Proof.Machine.execLshiftHiImm x exp s
  | .lshiftHiOrImm x exp => Sys2Proof.Machine.execLshiftHiOrImm x exp s
  | .lshiftLoImm x exp => Sys2Proof.Machine.execLshiftLoImm x exp s
  | .lshiftLoOrImm x exp => Sys2Proof.Machine.execLshiftLoOrImm x exp s
  | .ashiftHiImm x exp => Sys2Proof.Machine.execAshiftHiImm x exp s
  | .ashiftHiOrImm x exp => Sys2Proof.Machine.execAshiftHiOrImm x exp s
  | .ashiftLoImm x exp => Sys2Proof.Machine.execAshiftLoImm x exp s
  | .ashiftLoOrImm x exp => Sys2Proof.Machine.execAshiftLoOrImm x exp s
  | .loadimmDreg r v => Sys2Proof.Machine.execLoadimmDreg r v s
  | .loadimmSreg r v => Sys2Proof.Machine.execLoadimmSreg r v s
  | .move dst src => Sys2Proof.Machine.execMove dst src s

end Sys2Proof.Machine
end

