-- ==== Sys2Proof/Machine/Step.lean ====
section
/-! DEFINITION. One step of a run: fetch the word at the position, decode it, run it (R34, R52). -/

namespace Sys2Proof.Machine

/-- One cycle: "the state after cycle n is `step(op_n, state after cycle n−1)`" (R52). At the end of the
operation list the run has ended (R34); a word that is no instruction is refused (R71). -/
def step (s : State) : Host.Outcome State Fault Refusal :=
  match s.fetch with
  | none => .fault .endOfProgram
  | some w =>
    match decode w with
    | .error why => .refused (.undecodable why)
    | .ok i => exec i s

/-- `s` with a table row's word stored at the run's position, so that the next step runs it. One 24-bit
word is the whole instruction (R64), so `nbits` adds nothing. -/
def State.withFetchWord (s : State) (_nbits w : Nat) : State := s.putWord (BitVec.ofNat 24 w)

end Sys2Proof.Machine
end

