-- ==== Sys2Proof/Machine/Cycle.lean ====
section
/-! DEFINITION. The multifunction cycle of R47 and the bus transfers of R41 and R45: one operation together
with register loads and reads whose far ends are the environment (D20). No word of the opcode table
encodes such a cycle (R47, D3), so `step` never runs one; the definition gives the rule its meaning (log 7). -/

namespace Sys2Proof.Machine

/-- The four registers the PMD bus writes directly (R12, R17, R41). -/
inductive PmdReg where
  | ay0 | ay1 | my0 | my1
  deriving DecidableEq, Repr

/-- The data register a PMD write loads. -/
def pmdTarget : PmdReg → DReg
  | .ay0 => .ay0
  | .ay1 => .ay1
  | .my0 => .my0
  | .my1 => .my1

/-- One bus transfer, its far end supplied or consumed by the environment (R40, D20). PMD accesses other
than the four direct writes use "the DMD-PMD bus exchange unit" (R41; the reads of R11, R12, R13 and R17
among them). DESIGN CHOICE (log 16): the spec gives that unit no effect of its own, so the model lets it pass a
16-bit value unchanged between the two buses, for every register the DMD bus reaches. -/
inductive Transfer where
  /-- A load over the DMD bus (R42 to R45). -/
  | dmdLoad (r : Reg) (v : Word)
  /-- A direct write over the PMD bus: it "loads the 16-bit value the environment supplies, exactly as
  `DmdLoad` does" (R41). -/
  | pmdLoad (r : PmdReg) (v : Word)
  /-- A load from the PMD bus through the exchange unit (R41; log 16). -/
  | exchangeLoad (r : Reg) (v : Word)
  /-- A read onto the DMD bus (R42 to R45). -/
  | dmdRead (r : Reg)
  /-- A read onto the PMD bus through the exchange unit: "there is no direct connection" (R11, R12, R13,
  R17, R41; log 16). -/
  | exchangeRead (r : Reg)
  deriving DecidableEq, Repr

/-- A place a cycle can write: a register, or one flag of ASTAT. -/
inductive Loc where
  | reg (r : Reg)
  | flag (f : Flag)
  deriving DecidableEq, Repr

/-- The data register `r` as a place. -/
def Loc.data (r : DReg) : Loc := .reg (.data r)

/-- The eight flags, which a load of ASTAT writes (R30). -/
def allFlags : List Loc :=
  [.flag .AZ, .flag .AN, .flag .AV, .flag .AC, .flag .AS, .flag .AQ, .flag .MV, .flag .SS]

/-- What a load of a register writes: MR1 also MR2 (R43), ASTAT the eight flags (R30). -/
def loadWrites : Reg → List Loc
  | .data .mr1 => [.data .mr1, .data .mr2]
  | .data r => [.data r]
  | .status .astat => allFlags
  | .status .mstat => [.reg (.status .mstat)]
  | .status .sb => [.reg (.status .sb)]
  | .af => []
  | .mf => []

/-- The register a transfer loads and the value it loads, if it is a load. -/
def loadOf : Transfer → Option (Reg × Word)
  | .dmdLoad r v => some (r, v)
  | .pmdLoad r v => some (.data (pmdTarget r), v)
  | .exchangeLoad r v => some (r, v)
  | .dmdRead _ => none
  | .exchangeRead _ => none

/-- The register a transfer reads, if it is a read. -/
def readOf : Transfer → Option Reg
  | .dmdLoad _ _ => none
  | .pmdLoad _ _ => none
  | .exchangeLoad _ _ => none
  | .dmdRead r => some r
  | .exchangeRead r => some r

/-- What a transfer writes. -/
def transferWrites (x : Transfer) : List Loc :=
  match loadOf x with
  | none => []
  | some (r, _) => loadWrites r

/-- What an ALU function writes: its destination and AZ, AN, AV, AC (R83, R84). -/
def aluWrites : AluDst → List Loc
  | .ar => [.data .ar, .flag .AZ, .flag .AN, .flag .AV, .flag .AC]
  | .af => [.reg .af, .flag .AZ, .flag .AN, .flag .AV, .flag .AC]

/-- What a divide primitive writes (R121, R122, R128). -/
def divWrites : List Loc := [.reg .af, .data .ay0, .flag .AQ]

/-- The three sections of MR (R18). -/
def mrWrites : List Loc := [.data .mr2, .data .mr1, .data .mr0]

/-- What a multiply or a clear writes: its destination and MV (R144, R145). -/
def macWrites : MacDst → List Loc
  | .mr => [.data .mr2, .data .mr1, .data .mr0, .flag .MV]
  | .mf => [.reg .mf, .flag .MV]

/-- The two halves of SR (R176). -/
def srWrites : List Loc := [.data .sr1, .data .sr0]

/-- The registers and flags the rule of an instruction writes, on some state at least (files 40 to
44). DESIGN CHOICE (log 7): a write that a rule makes on some states only (SE by EXP (LO), R194; SB by EXPADJ,
R195; MR by the saturation instruction, R157) is counted on every state, so a cycle that also loads the register
is refused (R47) even where the instruction would leave it alone. -/
def instrWrites : Instr → List Loc
  | .aluPassx d _ | .aluNegx d _ | .aluClear d | .aluAdd d _ _ | .aluAddc d _ _ | .aluSub d _ _
  | .aluSubb d _ _ | .aluRsub d _ _ | .aluRsubb d _ _ | .aluNegy d _ | .aluIncy d _ | .aluDecy d _
  | .aluPassy d _ | .aluAnd d _ _ | .aluOr d _ _ | .aluXor d _ _ | .aluNotx d _ | .aluNoty d _ =>
    aluWrites d
  | .aluAbsx d _ => aluWrites d ++ [.flag .AS]
  | .divs _ _ | .divq _ => divWrites
  | .macClear d | .macMulSs d _ _ | .macMulSu d _ _ | .macMulUs d _ _ | .macMulUu d _ _
  | .macMulRnd d _ _ | .macAddSs d _ _ | .macAddSu d _ _ | .macAddUs d _ _ | .macAddUu d _ _
  | .macAddRnd d _ _ | .macSubSs d _ _ | .macSubSu d _ _ | .macSubUs d _ _ | .macSubUu d _ _
  | .macSubRnd d _ _ => macWrites d
  | .satMr => mrWrites
  | .lshiftHi _ | .lshiftHiOr _ | .lshiftLo _ | .lshiftLoOr _ | .ashiftHi _ | .ashiftHiOr _
  | .ashiftLo _ | .ashiftLoOr _ | .normHi _ | .normHiOr _ | .normLo _ | .normLoOr _
  | .lshiftHiImm _ _ | .lshiftHiOrImm _ _ | .lshiftLoImm _ _ | .lshiftLoOrImm _ _
  | .ashiftHiImm _ _ | .ashiftHiOrImm _ _ | .ashiftLoImm _ _ | .ashiftLoOrImm _ _ => srWrites
  | .expHi _ | .expHix _ => [.data .se, .flag .SS]
  | .expLo _ => [.data .se]
  | .expadj _ => [.reg (.status .sb)]
  | .loadimmDreg r _ => loadWrites (.data r)
  | .loadimmSreg r _ => loadWrites (.status r)
  | .move d _ => loadWrites d

/-- Everything a cycle writes, each place once per writer. -/
def cycleWrites (op : Instr) (ts : List Transfer) : List Loc :=
  instrWrites op ++ ts.flatMap transferWrites

/-- The loads of a cycle, applied to a state; the bank is that of the start of the cycle (R26). -/
def applyLoads (sec : Bool) : List Transfer → State → Host.Outcome State Fault Refusal
  | [], t => .next t
  | x :: ts, t =>
    match loadOf x with
    | none => applyLoads sec ts t
    | some (r, v) =>
      match t.dmdLoadAt sec r v with
      | none => .refused (.noBusAccess r)
      | some t' => applyLoads sec ts t'

/-- The values a cycle's reads drive onto the buses, all of the state at its start (R46, R47). -/
def busReads (s : State) : List Transfer → Except Reg (List Word)
  | [] => .ok []
  | x :: ts =>
    match readOf x with
    | none => busReads s ts
    | some r =>
      match s.dmdRead r, busReads s ts with
      | none, _ => .error r
      | some _, .error e => .error e
      | some w, .ok ws => .ok (w :: ws)

/-- A cycle that holds an operation and transfers (R47): operands and reads are those of the start of
the cycle, all writes are applied at its end, and a cycle in which two writers target one register or flag
is refused (D28). The answer holds the next state and the values read. -/
def cycle (op : Instr) (ts : List Transfer) (s : State) :
    Host.Outcome (State × List Word) Fault Refusal :=
  if (cycleWrites op ts).Nodup then
    match busReads s ts with
    | .error r => .refused (.noBusAccess r)
    | .ok ws =>
      match exec op s with
      | .fault f => .fault f
      | .refused r => .refused r
      | .next t =>
        match applyLoads s.mstat.secReg ts t with
        | .fault f => .fault f
        | .refused r => .refused r
        | .next t' => .next (t', ws)
  else .refused .twoWriters

/-- The environment sets the BIASRND bit before a run (R32, D18). -/
def State.setBiasrnd (b : Bool) (s : State) : State := { s with biasrnd := b }

end Sys2Proof.Machine
end

