-- ==== Sys2Proof/Safety.lean ====
section
/-! DEFINITION. The terms in which claims are made: what a safe run keeps, and the effects the spec gives,
written from its rules in integer arithmetic and independently of the meanings of Machine/. -/

namespace Sys2Proof.Machine

/-! ## Runs -/

/-- What every state of a run of the list `p` on a member with parameters `c` and BIASRND `b` has: the
list and the parameters are those the run began with, and the position has not passed the end (R34, R54,
R8, R32). -/
structure State.InRun (p : List ProgWord) (c : Config) (b : Bool) (s : State) : Prop where
  prog_eq : s.prog = p
  config_eq : s.config = c
  biasrnd_eq : s.biasrnd = b
  idx_le : s.idx ≤ p.length

/-- A result's next state, changed; a stop stays as it is. -/
def mapNext (f : State → State) : Result → Result
  | .next t => .next (f t)
  | .fault r => .fault r
  | .refused r => .refused r

/-- One instruction executed `n` times, stopping at the first stop. -/
def execTimes (i : Instr) : Nat → State → Result
  | 0, s => .next s
  | n + 1, s =>
    match exec i s with
    | .next t => execTimes i n t
    | .fault r => .fault r
    | .refused r => .refused r

/-- A list of instructions executed in order, stopping at the first stop. -/
def execList : List Instr → State → Result
  | [], s => .next s
  | i :: is, s =>
    match exec i s with
    | .next t => execList is t
    | .fault r => .fault r
    | .refused r => .refused r

/-- A flag by its name. -/
def Astat.flag (a : Astat) : Flag → Bool
  | .AZ => a.AZ
  | .AN => a.AN
  | .AV => a.AV
  | .AC => a.AC
  | .AS => a.AS
  | .AQ => a.AQ
  | .MV => a.MV
  | .SS => a.SS

/-! ## Effects, as the rules give them -/

/-- A change of the selected bank, the other keeping its value (R26). -/
def onSelected (f : Bank → Bank) (s : State) : State :=
  match s.mstat.secReg with
  | false => { s with primary := f s.primary }
  | true => { s with secondary := f s.secondary }

/-- An integer outside the 16-bit signed range: the overflow of R82. -/
def outside16 (i : Int) : Bool := decide (i < -32768 ∨ 32767 < i)

/-- The state after an ALU function whose output is `r` with carry `c` and overflow `v` (R83 to R87). -/
def aluNext (dst : AluDst) (r : Word) (c v : Bool) (s : State) : State :=
  let out : Word := if s.mstat.arSat = true ∧ v = true then (if c then 0x8000 else 0x7FFF) else r
  let put : Bank → Bank := match dst with
    | .ar => fun b => { b with ar := out }
    | .af => fun b => { b with af := r }
  { onSelected put s with
    astat := { s.astat with
      AZ := decide (out = 0)
      AN := out.getLsbD 15
      AV := v || (s.mstat.avLatch && s.astat.AV)
      AC := c }
    idx := s.idx + 1 }

/-- The destination register of an ALU function, as a state holds it. -/
def State.aluResult (dst : AluDst) (s : State) : Word :=
  match dst with
  | .ar => s.bank.ar
  | .af => s.bank.af

/-- An integer outside the n-bit signed range. -/
def outsideSigned (n : Nat) (i : Int) : Bool := decide (i < -(2 ^ (n - 1)) ∨ 2 ^ (n - 1) ≤ i)

/-- The state after a divide primitive with output `r`, new AQ `q` and `bit` entering AY0 (R121, R122). -/
def divNext (r : Word) (q bit : Bool) (s : State) : State :=
  { onSelected (fun b =>
      { b with
        af := BitVec.ofNat 16 (2 * r.toNat + b.ay0.toNat / 32768)
        ay0 := BitVec.ofNat 16 (2 * b.ay0.toNat + bit.toNat) }) s with
    astat := { s.astat with AQ := q }
    idx := s.idx + 1 }

/-- The signed rows of the table of R126: the quotient of `n` by `d` truncated toward zero, or one less. -/
def quotientOfTable (n d : Int) : Int :=
  if 0 ≤ n then (if 0 < d then n.tdiv d else n.tdiv d - 1)
  else if 0 < d then (if n % d = 0 then n.tdiv d else n.tdiv d - 1)
  else (if n % d = 0 then n.tdiv d - 1 else n.tdiv d)

/-- The exact product of R137 in each format of R136. -/
def exactProduct (fmt : MacFmt) (x y : Word) : Int :=
  match fmt with
  | .ss => x.toInt * y.toInt
  | .su => x.toInt * y.toNat
  | .us => x.toNat * y.toInt
  | .uu => x.toNat * y.toNat
  | .rnd => x.toInt * y.toInt

/-- The value the product has on the 40-bit adder: the exact product, but for an unsigned product of
2^31 or more under `uu_extend = sign`, which stands for 2^32 less (R141), doubled in fractional mode
(R140). -/
def adderTerm (s : State) (fmt : MacFmt) (x y : Word) : Int :=
  let p := exactProduct fmt x y
  let e := if fmt = .uu ∧ s.config.uuExtend = .sign ∧ 2 ^ 31 ≤ p then p - 2 ^ 32 else p
  if s.mstat.mMode then e else 2 * e

/-- The adder's result before rounding, as an integer still to be cut to 40 bits (R142). -/
def adderResult (s : State) (fn : MacFn) (fmt : MacFmt) (x y : Word) : Int :=
  match fn with
  | .mul => adderTerm s fmt x y
  | .add => s.bank.mr.toInt + adderTerm s fmt x y
  | .sub => s.bank.mr.toInt - adderTerm s fmt x y

/-- Rounding to a multiple of 2^16 at bit 15 with the low word left as the addition of 2^15 leaves it: up
from the midpoint when biased, to the even neighbour when not (R143). -/
def roundInt (biased : Bool) (i : Int) : Int :=
  if i % 65536 = 32768 ∧ biased = false ∧ (i / 65536) % 2 = 0 then i - 32768 else i + 32768

/-- The state after a multiply or a clear whose 40-bit result is `r` (R144, R145). -/
def macNext (dst : MacDst) (r : Accum) (s : State) : State :=
  let put : Bank → Bank := match dst with
    | .mr => fun b =>
      { b with mr2 := r.extractLsb' 32 8, mr1 := r.extractLsb' 16 16, mr0 := r.extractLsb' 0 16 }
    | .mf => fun b => { b with mf := r.extractLsb' 16 16 }
  { onSelected put s with
    astat := { s.astat with MV := decide (r.toInt < -(2 ^ 31) ∨ 2 ^ 31 - 1 < r.toInt) }
    idx := s.idx + 1 }

/-- Bit `j` of the shifter array's output, as R172 gives it bit by bit. -/
def arrayBit (inp : Word) (c : Int) (hl : HiLo) (x : Bool) (j : Nat) : Bool :=
  let s : Int := c + (match hl with | .hi => 16 | .lo => 0)
  if (j : Int) < s then false
  else if (j : Int) ≤ s + 15 then inp.getLsbD ((j : Int) - s).toNat
  else x

/-- `a` is the array's output for an input, control code, reference and extension bit (R172). -/
def IsArrayOutput (inp : Word) (c : Int) (hl : HiLo) (x : Bool) (a : Long) : Prop :=
  ∀ j, j < 32 → a.getLsbD j = arrayBit inp c hl x j

/-- The state after a shift whose array output is `a` (R176). -/
def shiftNext (orSr : Bool) (a : Long) (s : State) : State :=
  { onSelected (fun b =>
      let sr : Long := if orSr then (b.sr1 ++ b.sr0) ||| a else a
      { b with sr1 := sr.extractLsb' 16 16, sr0 := sr.extractLsb' 0 16 }) s with
    idx := s.idx + 1 }

/-- `n` is the number of leading bits of a word equal to `b` (R178, R180). -/
def LeadingRun (w : Word) (b : Bool) (n : Nat) : Prop :=
  n ≤ 16 ∧ (∀ k, k < n → w.getLsbD (15 - k) = b) ∧ (n < 16 → w.getLsbD (15 - n) = !b)

/-- The greatest integer at most `i · 2^c`. -/
def scaleFloor (i c : Int) : Int :=
  if 0 ≤ c then i * 2 ^ c.toNat else i / 2 ^ (-c).toNat

/-- The register behind a shifter input. -/
def shXReg : ShX → DReg
  | .si => .si
  | .ar => .ar
  | .mr0 => .mr0
  | .mr1 => .mr1
  | .mr2 => .mr2
  | .sr0 => .sr0
  | .sr1 => .sr1

/-- What a shifter input reads after its register was loaded with a value: MR2 keeps the low 8 bits, read
sign-extended (R44). -/
def shLoaded (x : ShX) (w : Word) : Word :=
  match x with
  | .mr2 => (w.extractLsb' 0 8).signExtend 16
  | .si | .ar | .mr0 | .mr1 | .sr0 | .sr1 => w

/-- The block exponent program of R196: SB = −16, then each element loaded into a shifter input and shown to
EXPADJ. -/
def blockScan (es : List (ShX × Word)) : List Instr :=
  .loadimmSreg .sb 0xFFF0 ::
    es.flatMap (fun e => [.loadimmDreg (shXReg e.1) e.2, .expadj e.1])

/-! ## Multifunction cycles -/

/-- A transfer whose register has the access it needs (R45, R56). -/
def Transfer.accessible (x : Transfer) : Bool :=
  (match loadOf x with | none => true | some (r, _) => r.loadable) &&
    (match readOf x with | none => true | some r => r.readable)

/-- The values the reads of a cycle return, each of the given state (R47). -/
def readsAt (s : State) (ts : List Transfer) : List Word :=
  ts.filterMap (fun x => (readOf x).bind s.dmdRead)

/-- Register `r` holds what a load of `v` gives it, in the bank `sec` selects (R30, R31, R42 to R44). -/
def LoadedWith (sec : Bool) (r : Reg) (v : Word) (u : State) : Prop :=
  match r with
  | .data .mr1 => (u.bankAt sec).mr1 = v ∧ (u.bankAt sec).mr2 = (if v.getLsbD 15 then 0xFF else 0x00)
  | .data .mr2 => (u.bankAt sec).mr2 = v.extractLsb' 0 8
  | .data .se => (u.bankAt sec).se = v.extractLsb' 0 8
  | .data d => (u.bankAt sec).read d = v
  | .status .sb => (u.bankAt sec).sb = v.extractLsb' 0 5
  | .status .astat => u.astat = astatOfWord v
  | .status .mstat => u.mstat = mstatOfWord v
  | .af => False
  | .mf => False

/-- Outside the places in `ws`, and in the other bank, `u` is `t` (the bank being the one `sec` selects). -/
def SameOutside (sec : Bool) (ws : List Loc) (t u : State) : Prop :=
  (∀ d, Loc.data d ∉ ws → (u.bankAt sec).read d = (t.bankAt sec).read d) ∧
  (Loc.reg (.status .sb) ∉ ws → (u.bankAt sec).sb = (t.bankAt sec).sb) ∧
  (∀ f, Loc.flag f ∉ ws → u.astat.flag f = t.astat.flag f) ∧
  (Loc.reg (.status .mstat) ∉ ws → u.mstat = t.mstat) ∧
  (u.bankAt sec).af = (t.bankAt sec).af ∧ (u.bankAt sec).mf = (t.bankAt sec).mf ∧
  u.bankAt (!sec) = t.bankAt (!sec) ∧
  u.biasrnd = t.biasrnd ∧ u.config = t.config ∧ u.prog = t.prog ∧ u.idx = t.idx

/-- A transfer through the exchange unit as the DMD transfer of the same register (R41, log 16). -/
def overDmd : Transfer → Transfer
  | .exchangeLoad r v => .dmdLoad r v
  | .exchangeRead r => .dmdRead r
  | .dmdLoad r v => .dmdLoad r v
  | .pmdLoad r v => .pmdLoad r v
  | .dmdRead r => .dmdRead r

end Sys2Proof.Machine
end

