-- ==== Sys2Proof/Certificates/Slice0/Obligations.lean ====
section
/-! DEFINITION. What is to be proved of the model, one `def Obligations.<Name> : Prop` each. Marks in the
docstrings name what a statement rests on beside the source's own words: D<n> is a decision of
92_eei_decisions.md, log <n> an entry of notes/assumptions. -/

open Sys2Proof Sys2Proof.Machine

/-! ## Encoding -/

/-- Decoding the word of a well-formed instruction gives the instruction back, for every instruction and
every operand value. The bit patterns are the spec's general knowledge (log 8). -/
def Obligations.DecodeOfEncode : Prop :=
  ∀ i : Instr, i.wellFormed = true → decode (encode i) = .ok i

/-- Every word the decoder accepts is the word of the instruction it reads, which is well-formed: no bit of
a word is ignored, and no two words mean the same (log 8). -/
def Obligations.EncodeOfDecode : Prop :=
  ∀ (w : ProgWord) (i : Instr), decode w = .ok i → i.wellFormed = true ∧ encode i = w

/-- Words the spec writes out bit by bit in R66 to R70 decode to the instructions it names (log 8). -/
def Obligations.SpecWordsDecode : Prop :=
  decode 0b001000100110000000001111 = .ok (.aluAdd .ar .ax0 .ay0) ∧
  decode 0b001000001001100000001111 = .ok (.macClear .mr) ∧
  decode 0b000011110000000011111011 = .ok (.lshiftHiImm .si 0xFB) ∧
  decode 0b000011100110001000001111 = .ok (.expHi .ar) ∧
  decode 0b010010110110101000111000 = .ok (.loadimmDreg .si 0xB6A3) ∧
  decode 0b001111111111111100000110 = .ok (.loadimmSreg .sb 0xFFF0) ∧
  decode 0b000011010000000010010000 = .ok (.move (.data .se) (.data .ax0)) ∧
  decode 0b000001010000000000000000 = .ok .satMr

/-- A type 9 or type 16 word whose COND field is not 1111 is refused whatever its other fields (R71, D27; log
8). The name "conditional form" is the model's choice where such a word falls under another name of R71 too (AMF =
00000, a Y = 0 form, shifter Xop 001): COND is looked at before those fields and after the bits its format fixes at
zero, so it is the answer when those bits are zero (log 14). -/
def Obligations.ConditionalFormsRefused : Prop :=
  ∀ w : ProgWord, (w.extractLsb' 19 5 = 0b00100 ∨ w.extractLsb' 16 8 = 0x0E) →
    w.extractLsb' 0 4 ≠ 0b1111 →
    (∃ why, decode w = .error why) ∧
    (w.extractLsb' 4 4 = 0 → (w.extractLsb' 16 8 = 0x0E → w.extractLsb' 15 1 = 0) →
      decode w = .error .conditionalForm)

/-! ## Step and run -/

/-- When the word at the position decodes to an instruction, the step is that instruction's execution on
the same state; nothing is added around it. That the list of R34 is held in State as 24-bit words, which the step
fetches and decodes, is the model's choice (log 2): in D2 and R54 the list of terms is a parameter. -/
def Obligations.StepRunsDecoded : Prop :=
  ∀ (s : State) (w : ProgWord) (i : Instr), s.prog[s.idx]? = some w → decode w = .ok i →
    step s = exec i s

/-- The run ends when the position has reached the length of the list (R34, D2, D23). -/
def Obligations.RunEndsAtLength : Prop :=
  ∀ s : State, s.prog.length ≤ s.idx → step s = .fault .endOfProgram

/-- A word the decoder refuses is refused by the step under the decoder's name for it (R71, D27). -/
def Obligations.StepRefusesUndecodable : Prop :=
  ∀ (s : State) (w : ProgWord) (why : DecodeRefusal), s.prog[s.idx]? = some w →
    decode w = .error why → step s = .refused (.undecodable why)

/-- The invariant of a run: every step keeps the operation list, the parameters and BIASRND, and never
takes the position past the end of the list (R34, R54, R32; D2, D18). -/
def Obligations.StepKeepsRun : Prop :=
  ∀ (p : List ProgWord) (c : Config) (b : Bool) (s t : State),
    s.InRun p c b → step s = .next t → t.InRun p c b

/-- The reset state meets that invariant, at position 0 of the list it holds. That reset holds no list and
these parameters is the model's choice (log 2, log 3). -/
def Obligations.ResetInRun : Prop :=
  State.reset.InRun [] Config.default false ∧ State.reset.idx = 0

/-- After k steps the position has moved on by exactly k, inside the list, with the list, the parameters
and BIASRND as they were (R34, R54, R229; D2). -/
def Obligations.RunAdvancesByOne : Prop :=
  ∀ (p : List ProgWord) (c : Config) (b : Bool) (k : Nat) (s t : State), s.InRun p c b →
    Sys2Proof.core.run k s = .next t → t.InRun p c b ∧ t.idx = s.idx + k

/-- Every well-formed term executes in every state, NORM when SE holds −128 apart, and that one case is
refused (R63, R181, R220; D14, D21). -/
def Obligations.EveryTermExecutes : Prop :=
  ∀ (i : Instr) (s : State), i.isTerm = true →
    ((s.bank.se ≠ 0x80 ∨ ∀ orSr hl x, i ≠ normTerm orSr hl x) → ∃ t, exec i s = .next t) ∧
    (s.bank.se = 0x80 → ∀ orSr hl x, i = normTerm orSr hl x →
      exec i s = .refused .normControlCode)

/-- No operation raises an exception: no instruction, well-formed or not, faults in any state (R220,
D21). -/
def Obligations.NoInstructionFaults : Prop :=
  ∀ (i : Instr) (s : State) (f : Fault), exec i s ≠ .fault f

/-! ## Banks -/

/-- Whatever an instruction does, the bank MSTAT[0] did not select at the start of the cycle keeps its
value; a change of MSTAT[0] copies nothing (R26). -/
def Obligations.UnselectedBankKept : Prop :=
  ∀ (i : Instr) (s t : State), exec i s = .next t →
    t.bankAt (!s.mstat.secReg) = s.bankAt (!s.mstat.secReg)

/-- MSTAT[0] selects the bank, of all three units together; every instruction reads and writes the bank
selected at the start of the cycle, and the other keeps its value and cannot be observed: with another value in
it every instruction does the same and leaves that value there. A load of MSTAT copies nothing (R26). -/
def Obligations.UnselectedBankUnobserved : Prop :=
  ∀ (i : Instr) (s : State) (b : Bank),
    s.bank = (if s.mstat.secReg then s.secondary else s.primary) ∧
    (s.mstat.secReg = false →
      exec i { s with secondary := b } = mapNext (fun t => { t with secondary := b }) (exec i s)) ∧
    (s.mstat.secReg = true →
      exec i { s with primary := b } = mapNext (fun t => { t with primary := b }) (exec i s)) ∧
    (∀ v, ∃ t, exec (.loadimmSreg .mstat v) s = .next t ∧
      t.primary = s.primary ∧ t.secondary = s.secondary)

/-- ASTAT, MSTAT and BIASRND are in neither bank: a load of MSTAT writes the four modes from bits 0, 2, 3
and 4 and leaves both banks, the flags and BIASRND alone; the bank it selects is the one the next operation
reads (R27, R31; D17, D26). -/
def Obligations.MstatLoadSwitchesBank : Prop :=
  ∀ (v : Word) (s : State), ∃ t, exec (.loadimmSreg .mstat v) s = .next t ∧
    t = { s with
      mstat := ⟨v.getLsbD 0, v.getLsbD 2, v.getLsbD 3, v.getLsbD 4⟩
      idx := s.idx + 1 } ∧
    t.bank = if v.getLsbD 0 then s.secondary else s.primary

/-! ## Frames and flags of every instruction -/

/-- What an instruction's rule does not write it leaves alone: every register and flag that is not among
`instrWrites i` reads as before, in the bank selected at the start of the cycle; the other bank, BIASRND,
the parameters and the operation list are untouched, and the position moves on by one. That a register not
named as destination, and a flag the rule does not mention, keep their values is D5 to D7, D12, D13, D15
and D30. -/
def Obligations.FrameOfEveryInstruction : Prop :=
  ∀ (i : Instr) (s t : State), exec i s = .next t →
    (∀ r, Loc.data r ∉ instrWrites i →
      (t.bankAt s.mstat.secReg).read r = (s.bankAt s.mstat.secReg).read r) ∧
    (Loc.reg .af ∉ instrWrites i → (t.bankAt s.mstat.secReg).af = (s.bankAt s.mstat.secReg).af) ∧
    (Loc.reg .mf ∉ instrWrites i → (t.bankAt s.mstat.secReg).mf = (s.bankAt s.mstat.secReg).mf) ∧
    (Loc.reg (.status .sb) ∉ instrWrites i →
      (t.bankAt s.mstat.secReg).sb = (s.bankAt s.mstat.secReg).sb) ∧
    (∀ f, Loc.flag f ∉ instrWrites i → t.astat.flag f = s.astat.flag f) ∧
    (Loc.reg (.status .mstat) ∉ instrWrites i → t.mstat = s.mstat) ∧
    t.bankAt (!s.mstat.secReg) = s.bankAt (!s.mstat.secReg) ∧
    t.biasrnd = s.biasrnd ∧ t.config = s.config ∧ t.prog = s.prog ∧ t.idx = s.idx + 1

/-- The flags with one writer besides a load of ASTAT: AS changes only under ABS, AQ only under DIVS and
DIVQ, MV only under a multiply or a clear, SS only under EXP in the HI and HIX states, and AZ, AN, AV and AC
only under the nineteen ALU functions (R29, R128; D7, D12, D30). -/
def Obligations.FlagWriters : Prop :=
  ∀ (i : Instr) (s t : State), exec i s = .next t →
    (∀ v, i ≠ .loadimmSreg .astat v) → (∀ r, i ≠ .move (.status .astat) r) →
    (t.astat.AS ≠ s.astat.AS → ∃ d x, i = .aluAbsx d x) ∧
    (t.astat.AQ ≠ s.astat.AQ → (∃ y x, i = .divs y x) ∨ ∃ x, i = .divq x) ∧
    (t.astat.MV ≠ s.astat.MV →
      (∃ fn fmt d x y, i = macTerm fn fmt d x y) ∨ ∃ d, i = .macClear d) ∧
    (t.astat.SS ≠ s.astat.SS → ∃ x, i = .expHi x ∨ i = .expHix x) ∧
    (t.astat.AZ ≠ s.astat.AZ ∨ t.astat.AN ≠ s.astat.AN ∨ t.astat.AV ≠ s.astat.AV ∨
      t.astat.AC ≠ s.astat.AC → ∃ fn d x y, i = aluTerm fn d x y)

/-- In ALU overflow latch mode AV, once set, stays set under every instruction but a load of ASTAT over
the DMD bus (R85, D9). -/
def Obligations.AvLatchSticks : Prop :=
  ∀ (i : Instr) (s t : State), s.mstat.avLatch = true → s.astat.AV = true → exec i s = .next t →
    t.astat.AV = true ∨ (∃ v, i = .loadimmSreg .astat v) ∨ ∃ r, i = .move (.status .astat) r

/-! ## The ALU -/

/-- The adder: its sum modulo 2^16; AC is the unsigned carry, AV the signed overflow, and after a
subtraction AC = 1 means no borrow (R82, D4). -/
def Obligations.AdderCarryAndOverflow : Prop :=
  ∀ (a b : Word) (cin : Bool),
    (add16 a b cin).r.toNat = (a.toNat + b.toNat + cin.toNat) % 65536 ∧
    (add16 a b cin).c = decide (65536 ≤ a.toNat + b.toNat + cin.toNat) ∧
    (add16 a b cin).v = outside16 (a.toInt + b.toInt + cin.toNat) ∧
    (add16 a (~~~b) true).c = decide (b.toNat ≤ a.toNat) ∧
    (add16 a (~~~b) true).v = outside16 (a.toInt - b.toInt)

/-- ADD, ADDC and INCY execute in every state and leave the sum, its carry and its signed overflow, as R83
to R87 place them (R88, R89, R96; D8, D9, D13). -/
def Obligations.AluSums : Prop :=
  ∀ (dst : AluDst) (x : AluX) (y : AluY) (s : State),
    exec (.aluAdd dst x y) s =
      .next (aluNext dst (s.bank.aluX x + s.bank.aluY y)
        (decide (65536 ≤ (s.bank.aluX x).toNat + (s.bank.aluY y).toNat))
        (outside16 ((s.bank.aluX x).toInt + (s.bank.aluY y).toInt)) s) ∧
    exec (.aluAddc dst x y) s =
      .next (aluNext dst
        (BitVec.ofNat 16 ((s.bank.aluX x).toNat + (s.bank.aluY y).toNat + s.astat.AC.toNat))
        (decide (65536 ≤ (s.bank.aluX x).toNat + (s.bank.aluY y).toNat + s.astat.AC.toNat))
        (outside16 ((s.bank.aluX x).toInt + (s.bank.aluY y).toInt + s.astat.AC.toNat)) s) ∧
    exec (.aluIncy dst y) s =
      .next (aluNext dst (s.bank.aluY y + 1) (decide (s.bank.aluY y = 0xFFFF))
        (decide (s.bank.aluY y = 0x7FFF)) s)

/-- SUB, SUBB, RSUB and RSUBB execute in every state and leave the difference, AC = 1 for no borrow, and
the signed overflow (R90 to R93; D4, D8, D9, D13). -/
def Obligations.AluDifferences : Prop :=
  ∀ (dst : AluDst) (x : AluX) (y : AluY) (s : State),
    exec (.aluSub dst x y) s =
      .next (aluNext dst (s.bank.aluX x - s.bank.aluY y)
        (decide ((s.bank.aluY y).toNat ≤ (s.bank.aluX x).toNat))
        (outside16 ((s.bank.aluX x).toInt - (s.bank.aluY y).toInt)) s) ∧
    exec (.aluSubb dst x y) s =
      .next (aluNext dst
        (BitVec.ofInt 16 ((s.bank.aluX x).toNat - (s.bank.aluY y).toNat + s.astat.AC.toNat - 1))
        (decide ((s.bank.aluY y).toNat + 1 ≤ (s.bank.aluX x).toNat + s.astat.AC.toNat))
        (outside16 ((s.bank.aluX x).toInt - (s.bank.aluY y).toInt + s.astat.AC.toNat - 1)) s) ∧
    exec (.aluRsub dst x y) s =
      .next (aluNext dst (s.bank.aluY y - s.bank.aluX x)
        (decide ((s.bank.aluX x).toNat ≤ (s.bank.aluY y).toNat))
        (outside16 ((s.bank.aluY y).toInt - (s.bank.aluX x).toInt)) s) ∧
    exec (.aluRsubb dst x y) s =
      .next (aluNext dst
        (BitVec.ofInt 16 ((s.bank.aluY y).toNat - (s.bank.aluX x).toNat + s.astat.AC.toNat - 1))
        (decide ((s.bank.aluX x).toNat + 1 ≤ (s.bank.aluY y).toNat + s.astat.AC.toNat))
        (outside16 ((s.bank.aluY y).toInt - (s.bank.aluX x).toInt + s.astat.AC.toNat - 1)) s)

/-- NEGX, NEGY and DECY execute in every state; a negation carries only for 0 and overflows only for
0x8000, a decrement carries unless the operand is 0 and overflows only for 0x8000 (R94, R95, R97; D4, D8, D9,
D13). -/
def Obligations.AluNegationsAndDecrement : Prop :=
  ∀ (dst : AluDst) (x : AluX) (y : AluY) (s : State),
    exec (.aluNegx dst x) s =
      .next (aluNext dst (-s.bank.aluX x) (decide (s.bank.aluX x = 0))
        (decide (s.bank.aluX x = 0x8000)) s) ∧
    exec (.aluNegy dst y) s =
      .next (aluNext dst (-s.bank.aluY y) (decide (s.bank.aluY y = 0))
        (decide (s.bank.aluY y = 0x8000)) s) ∧
    exec (.aluDecy dst y) s =
      .next (aluNext dst (s.bank.aluY y - 1) (decide (s.bank.aluY y ≠ 0))
        (decide (s.bank.aluY y = 0x8000)) s)

/-- PASSX, PASSY, CLEAR, AND, OR, XOR, NOTX and NOTY execute in every state with no carry and no overflow
(R98 to R100, R102 to R106; D5, D9, D13). -/
def Obligations.AluLogic : Prop :=
  ∀ (dst : AluDst) (x : AluX) (y : AluY) (s : State),
    exec (.aluPassx dst x) s = .next (aluNext dst (s.bank.aluX x) false false s) ∧
    exec (.aluPassy dst y) s = .next (aluNext dst (s.bank.aluY y) false false s) ∧
    exec (.aluClear dst) s = .next (aluNext dst 0 false false s) ∧
    exec (.aluAnd dst x y) s =
      .next (aluNext dst (s.bank.aluX x &&& s.bank.aluY y) false false s) ∧
    exec (.aluOr dst x y) s =
      .next (aluNext dst (s.bank.aluX x ||| s.bank.aluY y) false false s) ∧
    exec (.aluXor dst x y) s =
      .next (aluNext dst (s.bank.aluX x ^^^ s.bank.aluY y) false false s) ∧
    exec (.aluNotx dst x) s = .next (aluNext dst (~~~s.bank.aluX x) false false s) ∧
    exec (.aluNoty dst y) s = .next (aluNext dst (~~~s.bank.aluY y) false false s)

/-- ABS executes in every state: the magnitude, 0x8000 standing for itself with an overflow, no carry,
and AS the operand's sign (R101; D6, D8, D9, D13). -/
def Obligations.AluAbs : Prop :=
  ∀ (dst : AluDst) (x : AluX) (s : State), ∃ t, exec (.aluAbsx dst x) s = .next t ∧
    t = { aluNext dst (BitVec.ofInt 16 (s.bank.aluX x).toInt.natAbs) false
            (decide (s.bank.aluX x = 0x8000)) s with astat := t.astat } ∧
    t.astat = { (aluNext dst (BitVec.ofInt 16 (s.bank.aluX x).toInt.natAbs) false
            (decide (s.bank.aluX x = 0x8000)) s).astat with AS := (s.bank.aluX x).getLsbD 15 }

/-- Table 2.2: in AR saturation mode the value an ALU function, any of the nineteen, loads into AR depends on
the overflow and carry it generates on that cycle: the ALU output when there is no overflow, 0x7FFF on overflow
without carry, 0x8000 on overflow with carry; out of the mode it is always the ALU output. The output, the
overflow and the carry are read off the same function with destination AF, the mode and the AV latch off. With
destination AF only AR saturates: in the mode or out of it AF receives the ALU output, wrapped around, overflow or
not, while the flags reflect the saturated value (R86). That AR then keeps its value is the spec's decision D13 (R84,
log 9). -/
def Obligations.ArSaturationTable : Prop :=
  ∀ (fn : AluFn) (x : AluX) (y : AluY) (s : State),
    ∃ t u w, exec (aluTerm fn .ar x y) s = .next t ∧ exec (aluTerm fn .af x y) s = .next u ∧
      exec (aluTerm fn .af x y)
        { s with mstat := { s.mstat with avLatch := false, arSat := false } } = .next w ∧
      t.bank.ar =
        (if s.mstat.arSat = true ∧ w.astat.AV = true then
          (if w.astat.AC then 0x8000 else 0x7FFF)
        else w.bank.af) ∧
      u.bank.af = w.bank.af ∧ u.bank.ar = s.bank.ar ∧
      u.astat.AZ = decide (t.bank.ar = 0) ∧ u.astat.AN = t.bank.ar.getLsbD 15

/-- The operand sources of R24 as the ports read them: each name reads the register of that name in the
selected bank, MR2 sign-extended. -/
def Obligations.OperandSources : Prop :=
  ∀ b : Bank,
    ([.ax0, .ax1, .ar, .mr0, .mr1, .mr2, .sr0, .sr1] : List AluX).map b.aluX =
      [b.ax0, b.ax1, b.ar, b.mr0, b.mr1, b.mr2.signExtend 16, b.sr0, b.sr1] ∧
    ([.ay0, .ay1, .af] : List AluY).map b.aluY = [b.ay0, b.ay1, b.af] ∧
    ([.mx0, .mx1, .ar, .mr0, .mr1, .mr2, .sr0, .sr1] : List MacX).map b.macX =
      [b.mx0, b.mx1, b.ar, b.mr0, b.mr1, b.mr2.signExtend 16, b.sr0, b.sr1] ∧
    ([.my0, .my1, .mf] : List MacY).map b.macY = [b.my0, b.my1, b.mf] ∧
    ([.si, .ar, .mr0, .mr1, .mr2, .sr0, .sr1] : List ShX).map b.shX =
      [b.si, b.ar, b.mr0, b.mr1, b.mr2.signExtend 16, b.sr0, b.sr1]

/-- Multiword arithmetic is exact (R107, which derives it; D4, D9). ADD of the low words and then ADDC of the high
words leave the words of the 32-bit sum, its carry in AC and its signed overflow in AV; SUB and then SUBB those of
the difference, AC = 1 for no borrow. What runs between the two is free but for AC, which must arrive as the first
left it; a step into AR must not be in AR saturation mode. Each further pair does the same: ADDC and SUBB on any words
extend by 16 bits a k-bit result whose carry stands in AC. -/
def Obligations.MultiprecisionExact : Prop :=
  ∀ (d d' : AluDst) (x x' : AluX) (y y' : AluY) (s s' : State),
    (s.mstat.arSat = false ∨ d = .af) → (s'.mstat.arSat = false ∨ d' = .af) →
    (∃ t, exec (.aluAdd d x y) s = .next t ∧ (s'.astat.AC = t.astat.AC →
      ∃ u, exec (.aluAddc d' x' y') s' = .next u ∧
        (u.aluResult d' ++ t.aluResult d : Long) =
          (s'.bank.aluX x' ++ s.bank.aluX x) + (s'.bank.aluY y' ++ s.bank.aluY y) ∧
        u.astat.AC = decide (2 ^ 32 ≤ (s'.bank.aluX x' ++ s.bank.aluX x : Long).toNat +
          (s'.bank.aluY y' ++ s.bank.aluY y : Long).toNat) ∧
        u.astat.AV = (outsideSigned 32 ((s'.bank.aluX x' ++ s.bank.aluX x : Long).toInt +
          (s'.bank.aluY y' ++ s.bank.aluY y : Long).toInt) || (s'.mstat.avLatch && s'.astat.AV)))) ∧
    (∃ t, exec (.aluSub d x y) s = .next t ∧ (s'.astat.AC = t.astat.AC →
      ∃ u, exec (.aluSubb d' x' y') s' = .next u ∧
        (u.aluResult d' ++ t.aluResult d : Long) =
          (s'.bank.aluX x' ++ s.bank.aluX x) - (s'.bank.aluY y' ++ s.bank.aluY y) ∧
        u.astat.AC = decide ((s'.bank.aluY y' ++ s.bank.aluY y : Long).toNat ≤
          (s'.bank.aluX x' ++ s.bank.aluX x : Long).toNat) ∧
        u.astat.AV = (outsideSigned 32 ((s'.bank.aluX x' ++ s.bank.aluX x : Long).toInt -
          (s'.bank.aluY y' ++ s.bank.aluY y : Long).toInt) || (s'.mstat.avLatch && s'.astat.AV)))) ∧
    (∀ (k : Nat) (a b : BitVec k), s'.astat.AC = decide (2 ^ k ≤ a.toNat + b.toNat) →
      ∃ u, exec (.aluAddc d' x' y') s' = .next u ∧
        u.aluResult d' ++ (a + b) = (s'.bank.aluX x' ++ a) + (s'.bank.aluY y' ++ b) ∧
        u.astat.AC = decide (2 ^ (16 + k) ≤
          (s'.bank.aluX x' ++ a).toNat + (s'.bank.aluY y' ++ b).toNat) ∧
        u.astat.AV = (outsideSigned (16 + k) ((s'.bank.aluX x' ++ a).toInt +
          (s'.bank.aluY y' ++ b).toInt) || (s'.mstat.avLatch && s'.astat.AV))) ∧
    (∀ (k : Nat) (a b : BitVec k), s'.astat.AC = decide (b.toNat ≤ a.toNat) →
      ∃ u, exec (.aluSubb d' x' y') s' = .next u ∧
        u.aluResult d' ++ (a - b) = (s'.bank.aluX x' ++ a) - (s'.bank.aluY y' ++ b) ∧
        u.astat.AC = decide ((s'.bank.aluY y' ++ b).toNat ≤ (s'.bank.aluX x' ++ a).toNat) ∧
        u.astat.AV = (outsideSigned (16 + k) ((s'.bank.aluX x' ++ a).toInt -
          (s'.bank.aluY y' ++ b).toInt) || (s'.mstat.avLatch && s'.astat.AV)))

/-! ## The divide primitives -/

/-- DIVS with Y = AY1 or AF executes in every state: the quotient sign into AQ and AY0, the AF-AY0 pair
shifted left one place; with Y = AY0, no term of the spec, it is refused (R121, R57; the untouched flags are
D7, the refusal D29). -/
def Obligations.DivsEffect : Prop :=
  ∀ (y : AluY) (x : AluX) (s : State),
    (y ≠ .ay0 → exec (.divs y x) s =
      .next (divNext (s.bank.aluY y)
        ((s.bank.aluX x).getLsbD 15 ^^ (s.bank.aluY y).getLsbD 15)
        ((s.bank.aluX x).getLsbD 15 ^^ (s.bank.aluY y).getLsbD 15) s)) ∧
    (y = .ay0 → exec (.divs y x) s = .refused .divsUpperHalf)

/-- DIVQ executes in every state: AF plus or minus the divisor by AQ, the new AQ the exclusive-OR of the
two sign bits, its inverse into AY0, the pair shifted left one place (R122; the untouched flags are D7). -/
def Obligations.DivqEffect : Prop :=
  ∀ (x : AluX) (s : State), ∃ r : Word,
    r = BitVec.ofInt 16 (if s.astat.AQ then (s.bank.af.toNat : Int) + (s.bank.aluX x).toNat
      else (s.bank.af.toNat : Int) - (s.bank.aluX x).toNat) ∧
    exec (.divq x) s =
      .next (divNext r ((s.bank.aluX x).getLsbD 15 ^^ r.getLsbD 15)
        (!((s.bank.aluX x).getLsbD 15 ^^ r.getLsbD 15)) s)

/-- The unsigned divide: with AQ = 0, a divisor D below 0x8000 and the upper half of the doubled dividend
in AF below D, sixteen DIVQ leave the truncated quotient in AY0 (R124; R126 records the first row of its table
as observed, not proved). -/
def Obligations.UnsignedDivide : Prop :=
  ∀ (x : AluX) (s : State), s.astat.AQ = false → (s.bank.aluX x).toNat < 0x8000 →
    s.bank.af.toNat < (s.bank.aluX x).toNat →
    ∃ t, execTimes (.divq x) 16 s = .next t ∧
      t.bank.ay0.toNat =
        ((s.bank.af.toNat * 65536 + s.bank.ay0.toNat) / 2) / (s.bank.aluX x).toNat

/-- The signed divide: with the dividend loaded doubled in AY1 or AF and AY0, one DIVS and fifteen DIVQ
leave in AY0 the value of the table of R126, truncated quotient or one less by the operands' signs and by
whether the division is exact, whenever that value fits 16 bits (R123; R126 records its table as observed, not
proved). -/
def Obligations.SignedDivide : Prop :=
  ∀ (y : AluY) (x : AluX) (s : State) (q : Int), y ≠ .ay0 → (s.bank.aluX x).toInt ≠ 0 →
    q = quotientOfTable ((s.bank.aluY y ++ s.bank.ay0 : Long).toInt / 2) (s.bank.aluX x).toInt →
    -32768 ≤ q → q ≤ 32767 →
    ∃ t u, exec (.divs y x) s = .next t ∧ execTimes (.divq x) 15 t = .next u ∧
      u.bank.ay0.toInt = q

/-! ## The multiplier/accumulator -/

/-- Multiply, multiply/accumulate and multiply/subtract in the formats SS, SU, US and UU execute in every
state: the exact product, doubled in fractional mode, alone or added to or subtracted from MR, modulo 2^40, to
MR or bits 31..16 to MF, with MV (R146, R148, R150; the reading of an unsigned product of 2^31 or more is the
parameter of D10, the register not named as destination D13, MV for MF D12). -/
def Obligations.MacProducts : Prop :=
  ∀ (fn : MacFn) (fmt : MacFmt) (dst : MacDst) (x : MacX) (y : MacY) (s : State), fmt ≠ .rnd →
    exec (macTerm fn fmt dst x y) s =
      .next (macNext dst
        (BitVec.ofInt 40 (adderResult s fn fmt (s.bank.macX x) (s.bank.macY y))) s)

/-- The RND forms execute in every state: signed operands, the sum first and then rounded, biased only
when the member has BIASRND and it is set (R147, R149, R151, R143, R32; signed operands are D11, MV D12, the
other destination D13, BIASRND's source D18). -/
def Obligations.MacRounded : Prop :=
  ∀ (fn : MacFn) (dst : MacDst) (x : MacX) (y : MacY) (s : State),
    exec (macTerm fn .rnd dst x y) s =
      .next (macNext dst
        (BitVec.ofInt 40 (roundInt (s.config.hasBiasrnd && s.biasrnd)
          (adderResult s fn .rnd (s.bank.macX x) (s.bank.macY y)))) s)

/-- A clear executes in every state: MR or MF zero, MV zero (R152; the MF form is general knowledge, MV
D12). -/
def Obligations.MacClears : Prop :=
  ∀ (dst : MacDst) (s : State), exec (.macClear dst) s = .next (macNext dst 0 s)

/-- Table 2.3: with MV set the saturation instruction leaves MR at full scale by the sign in MR2's MSB;
with MV clear it changes nothing; it writes no flag (R157; the last is D12). -/
def Obligations.SatMrTable : Prop :=
  ∀ s : State, ∃ t, exec .satMr s = .next t ∧
    t = { onSelected (fun b =>
        if s.astat.MV = true then
          (if b.mr2.getLsbD 7 = true then { b with mr2 := 0xFF, mr1 := 0x8000, mr0 := 0x0000 }
          else { b with mr2 := 0x00, mr1 := 0x7FFF, mr0 := 0xFFFF })
        else b) s with idx := s.idx + 1 }

/-- MV is clear exactly when the 40-bit result lies in the 32-bit signed range (R144). -/
def Obligations.MvIsRangeTest : Prop :=
  ∀ r : Accum, mvOf r = decide (r.toInt < -(2 ^ 31) ∨ 2 ^ 31 - 1 < r.toInt)

/-- Only the RND format rounds, and it rounds "at the boundary between bit 15 and bit 16": the upper 24 bits go
to the nearest value, at the midpoint to the even one when unbiased and up when biased, and the low word is what
adding 0x8000 leaves (R143). -/
def Obligations.RoundingToNearest : Prop :=
  ∀ (fmt : MacFmt) (biased : Bool) (r0 : Accum),
    (fmt ≠ .rnd → macFinal fmt biased r0 = r0) ∧
    (macFinal .rnd biased r0).toNat / 65536 =
      (if r0.toNat % 65536 < 32768 then r0.toNat / 65536
        else if r0.toNat % 65536 = 32768 ∧ biased = false then
          r0.toNat / 65536 + (r0.toNat / 65536) % 2
        else r0.toNat / 65536 + 1) % 2 ^ 24 ∧
    (macFinal .rnd biased r0).toNat % 65536 = (r0.toNat + 32768) % 65536

/-! ## The barrel shifter -/

/-- The shifter array bit by bit, for every input, control code, reference and extension bit (R172). -/
def Obligations.ShifterArrayBits : Prop :=
  ∀ (inp : Word) (c : Int) (hl : HiLo) (x : Bool), IsArrayOutput inp c hl x (shifterArray inp c hl x)

/-- ASHIFT and LSHIFT by SE execute in every state: the array's output with the input's sign or zero as
extension bit, passed or ORed into SR; SE and every flag unchanged (R184, R186, R176; ASHIFT (LO) is D16, the
flags D30). -/
def Obligations.ShiftsBySe : Prop :=
  ∀ (kind : ShiftKind) (orSr : Bool) (hl : HiLo) (x : ShX) (s : State), ∃ a : Long,
    IsArrayOutput (s.bank.shX x) s.bank.se.toInt hl
      (decide (kind = .ashift) && (s.bank.shX x).getLsbD 15) a ∧
    exec (shiftTerm kind orSr hl x) s = .next (shiftNext orSr a s)

/-- The immediate shifts execute in every state with the immediate as control code; SE is neither read nor
changed (R185, R187, R58; ASHIFT (LO) is D16, the flags D30). -/
def Obligations.ShiftsByImmediate : Prop :=
  ∀ (kind : ShiftKind) (orSr : Bool) (hl : HiLo) (x : ShX) (exp : BitVec 8) (s : State), ∃ a : Long,
    IsArrayOutput (s.bank.shX x) exp.toInt hl
      (decide (kind = .ashift) && (s.bank.shX x).getLsbD 15) a ∧
    exec (shiftImmTerm kind orSr hl x exp) s = .next (shiftNext orSr a s)

/-- NORM executes exactly when SE is not −128: the array's output for the negated SE, AC the extension bit
in HI and zero in LO; with SE = −128 it is refused (R190, R181; the refusal is D14, the flags D30). -/
def Obligations.Normalizes : Prop :=
  ∀ (orSr : Bool) (hl : HiLo) (x : ShX) (s : State),
    (s.bank.se.toInt ≠ -128 → ∃ a : Long,
      IsArrayOutput (s.bank.shX x) (-s.bank.se.toInt) hl (decide (hl = .hi) && s.astat.AC) a ∧
      exec (normTerm orSr hl x) s = .next (shiftNext orSr a s)) ∧
    (s.bank.se.toInt = -128 → exec (normTerm orSr hl x) s = .refused .normControlCode)

/-- The exponent detector in the HI state: its code is one less the number of leading bits equal to the sign
bit, counting that bit itself, and lies in −15 to 0 (R178). -/
def Obligations.ExponentDetectorHiCode : Prop :=
  ∀ inp : Word, ∃ n, 1 ≤ n ∧ LeadingRun inp (inp.getLsbD 15) n ∧ expHiCode inp = 1 - n ∧
    -15 ≤ expHiCode inp ∧ expHiCode inp ≤ 0

/-- EXP (HI) executes in every state: SE is one less the number of leading sign bits, negated, and SS the
sign (R192, R178; the 8-bit form of SE is D33, the untouched flags D30). -/
def Obligations.ExpHiEffect : Prop :=
  ∀ (x : ShX) (s : State), ∃ n, 1 ≤ n ∧
    LeadingRun (s.bank.shX x) ((s.bank.shX x).getLsbD 15) n ∧
    exec (.expHi x) s =
      .next { onSelected (fun b => { b with se := BitVec.ofInt 8 (1 - n) }) s with
        astat := { s.astat with SS := (s.bank.shX x).getLsbD 15 }
        idx := s.idx + 1 }

/-- EXP (HIX) executes in every state: with AV set SE is +1 and SS the inverted sign; with AV clear it is
EXP (HI) (R193, R179; D33, D30). -/
def Obligations.ExpHixEffect : Prop :=
  ∀ (x : ShX) (s : State),
    (s.astat.AV = false → exec (.expHix x) s = exec (.expHi x) s) ∧
    (s.astat.AV = true → exec (.expHix x) s =
      .next { onSelected (fun b => { b with se := 1 }) s with
        astat := { s.astat with SS := !(s.bank.shX x).getLsbD 15 }
        idx := s.idx + 1 }) ∧
    ∃ t, exec (.expHix x) s = .next t

/-- EXP (LO) executes in every state: only if SE holds −15 it is loaded, with −15 less the number of
leading bits equal to SS; nothing else changes (R194, R180; the untouched SS is D30, the 8-bit form D33). -/
def Obligations.ExpLoEffect : Prop :=
  ∀ (x : ShX) (s : State),
    (s.bank.se.toInt ≠ -15 → exec (.expLo x) s = .next { s with idx := s.idx + 1 }) ∧
    (s.bank.se.toInt = -15 → ∃ n, LeadingRun (s.bank.shX x) s.astat.SS n ∧
      exec (.expLo x) s =
        .next { onSelected (fun b => { b with se := BitVec.ofInt 8 (-15 - n) }) s with
          idx := s.idx + 1 })

/-- EXPADJ executes in every state: SB becomes the larger, as signed integers, of itself and the HI-state
exponent of the input; nothing else changes (R195, R182; the detector state and the frame are D15). -/
def Obligations.ExpadjEffect : Prop :=
  ∀ (x : ShX) (s : State), ∃ n t, 1 ≤ n ∧
    LeadingRun (s.bank.shX x) ((s.bank.shX x).getLsbD 15) n ∧
    exec (.expadj x) s = .next t ∧ t.bank.sb.toInt = max s.bank.sb.toInt (1 - n) ∧
    t = { onSelected (fun b => { b with sb := t.bank.sb }) s with idx := s.idx + 1 }

/-- The block exponent program executes in every state and leaves in SB the largest HI-state exponent of the
elements: a load of SB with −16, then for each element, of which there is at least one, a load of a shifter input and
EXPADJ of it. SB is no less than the exponent of any element and is the exponent of one (R196, which derives it from
R195; D15, D24). -/
def Obligations.BlockExponentIsMax : Prop :=
  ∀ (es : List (ShX × Word)) (s : State), es ≠ [] → ∃ t, execList (blockScan es) s = .next t ∧
    (∀ e ∈ es, ∀ n, LeadingRun (shLoaded e.1 e.2) ((shLoaded e.1 e.2).getLsbD 15) n →
      (1 : Int) - n ≤ t.bank.sb.toInt) ∧
    ∃ e ∈ es, ∃ n, LeadingRun (shLoaded e.1 e.2) ((shLoaded e.1 e.2).getLsbD 15) n ∧
      t.bank.sb.toInt = 1 - n

/-- The single-precision normalize sequence: EXP (HI) then NORM (HI) leaves in SR the input scaled up by the
exponent it found, with exactly one sign bit left, unless the input is 0 (R199, R178; D33). -/
def Obligations.NormalizeRemovesSignBits : Prop :=
  ∀ (x : ShX) (s t : State), exec (.expHi x) s = .next t → t.bank.shX x = s.bank.shX x ∧
    ∃ u, exec (.normHi x) t = .next u ∧
      u.bank.sr.toInt = (s.bank.shX x).toInt * 2 ^ (16 + (-t.bank.se.toInt).toNat) ∧
      (s.bank.shX x ≠ 0 → u.bank.sr.getLsbD 31 ≠ u.bank.sr.getLsbD 30)

/-- Denormalizing a double-precision number by SE: the upper half shifted (HI) without [SR OR] and then the lower
half by LSHIFT (LO) with it leave in SR the 32-bit number scaled by two to the power SE and rounded down, modulo 2^32;
the lower half first gives the same. The upper half's shift is ASHIFT for a twos-complement number, LSHIFT for an
unsigned one. What runs between the two is free but for SE and SR, which must arrive as they were left (R198, R172,
R174, R175, R176; D16). -/
def Obligations.DoublePrecisionShift : Prop :=
  ∀ (xh xl : ShX) (s s' : State),
    (∃ t, exec (.ashiftHi xh) s = .next t ∧ (s'.bank.sr = t.bank.sr → s'.bank.se = t.bank.se →
      ∃ u, exec (.lshiftLoOr xl) s' = .next u ∧
        u.bank.sr = BitVec.ofInt 32
          (scaleFloor (s.bank.shX xh ++ s'.bank.shX xl : Long).toInt s.bank.se.toInt))) ∧
    (∃ t, exec (.lshiftLo xl) s = .next t ∧ (s'.bank.sr = t.bank.sr → s'.bank.se = t.bank.se →
      ∃ u, exec (.ashiftHiOr xh) s' = .next u ∧
        u.bank.sr = BitVec.ofInt 32
          (scaleFloor (s'.bank.shX xh ++ s.bank.shX xl : Long).toInt s.bank.se.toInt))) ∧
    (∃ t, exec (.lshiftHi xh) s = .next t ∧ (s'.bank.sr = t.bank.sr → s'.bank.se = t.bank.se →
      ∃ u, exec (.lshiftLoOr xl) s' = .next u ∧
        u.bank.sr = BitVec.ofInt 32
          (scaleFloor (s.bank.shX xh ++ s'.bank.shX xl : Long).toNat s.bank.se.toInt))) ∧
    (∃ t, exec (.lshiftLo xl) s = .next t ∧ (s'.bank.sr = t.bank.sr → s'.bank.se = t.bank.se →
      ∃ u, exec (.lshiftHiOr xh) s' = .next u ∧
        u.bank.sr = BitVec.ofInt 32
          (scaleFloor (s'.bank.shX xh ++ s.bank.shX xl : Long).toNat s.bank.se.toInt)))

/-! ## Register transfers -/

/-- A constant load of a data register executes in every state: the register reads the constant back, MR2
and SE the sign extension of its low 8 bits; of the other registers only MR2 changes, and only under a load of
MR1 (R210, R42, R44; the ignored upper bits are D24). -/
def Obligations.LoadDataRegister : Prop :=
  ∀ (r : DReg) (v : Word) (s : State), ∃ t, exec (.loadimmDreg r v) s = .next t ∧
    t.bank.read r =
      (if r = .mr2 ∨ r = .se then (v.truncate 8).signExtend 16 else v) ∧
    (∀ q, q ≠ r → ¬(r = .mr1 ∧ q = .mr2) → t.bank.read q = s.bank.read q) ∧
    t.bank.af = s.bank.af ∧ t.bank.mf = s.bank.mf ∧ t.bank.sb = s.bank.sb ∧
    t.bankAt (!s.mstat.secReg) = s.bankAt (!s.mstat.secReg) ∧
    t.astat = s.astat ∧ t.mstat = s.mstat ∧ t.biasrnd = s.biasrnd ∧ t.config = s.config ∧
    t.prog = s.prog ∧ t.idx = s.idx + 1

/-- A load of MR1 over the DMD bus, of which the constant load is one, writes MR1 and sets every bit of MR2 to
its sign; a load of MR2 after it gives MR2 another value and leaves MR1; MR1 reads back unchanged (R43). -/
def Obligations.LoadMr1ExtendsSign : Prop :=
  ∀ (v : Word) (w : BitVec 8) (s : State), ∃ t u, s.dmdLoad (.data .mr1) v = some t ∧
    exec (.loadimmDreg .mr1 v) s = .next t.advance ∧
    t.bank.mr1 = v ∧ t.bank.mr2 = (if v.getLsbD 15 then 0xFF else 0x00) ∧
    t.dmdLoad (.data .mr2) (w.signExtend 16) = some u ∧ u.bank.mr2 = w ∧ u.bank.mr1 = v ∧
    u.dmdRead (.data .mr1) = some v

/-- A constant load of a status-group register executes in every state: ASTAT takes its eight flags from
bits 0 to 7, MSTAT its four modes from bits 0, 2, 3 and 4, SB the low 5 bits (R210, R30, R31, R44; the layout
is log 4, D17 and D25, the ignored bits D24). -/
def Obligations.LoadStatusRegister : Prop :=
  ∀ (v : Word) (s : State),
    exec (.loadimmSreg .astat v) s =
      .next { s with
        astat := ⟨v.getLsbD 0, v.getLsbD 1, v.getLsbD 2, v.getLsbD 3, v.getLsbD 4, v.getLsbD 5,
          v.getLsbD 6, v.getLsbD 7⟩
        idx := s.idx + 1 } ∧
    exec (.loadimmSreg .mstat v) s =
      .next { s with
        mstat := ⟨v.getLsbD 0, v.getLsbD 2, v.getLsbD 3, v.getLsbD 4⟩
        idx := s.idx + 1 } ∧
    exec (.loadimmSreg .sb v) s =
      .next { onSelected (fun b => { b with sb := v.extractLsb' 0 5 }) s with idx := s.idx + 1 }

/-- A MOVE whose registers have the access executes in every state, as the constant load of the value the
source drives onto the bus at the start of the cycle (R211, R46). -/
def Obligations.MoveIsReadThenLoad : Prop :=
  ∀ (src : Reg) (s : State), src.readable = true → ∃ w, s.dmdRead src = some w ∧
    (∀ d, ∃ t, exec (.move (.data d) src) s = .next t ∧ exec (.loadimmDreg d w) s = .next t) ∧
    (∀ d, ∃ t, exec (.move (.status d) src) s = .next t ∧ exec (.loadimmSreg d w) s = .next t)

/-- A MOVE that names a register without the access, AF or MF at either end or MSTAT as source, is refused
under that register's name (R45, R57; AF and MF are derived in R14 and R19, MSTAT in R56 and U13). -/
def Obligations.MoveWithoutAccessRefused : Prop :=
  ∀ (dst src : Reg) (s : State),
    (src.readable = false → exec (.move dst src) s = .refused (.noBusAccess src)) ∧
    (src.readable = true → dst.loadable = false →
      exec (.move dst src) s = .refused (.noBusAccess dst))

/-- A MOVE of a register to itself changes nothing but the position, MR1 apart, whose load sets MR2
(R211, R43). -/
def Obligations.MoveToSelf : Prop :=
  ∀ (r : Reg) (s : State), r.readable = true → r ≠ .data .mr1 →
    exec (.move r r) s = .next { s with idx := s.idx + 1 }

/-- What a DMD read returns: a sixteen-bit register as it is, MR2, SE and SB sign-extended, ASTAT's flags at
bits 0 to 7 with zeros above (R42, R44, R30; the layout is log 4 and D25). -/
def Obligations.BusReads : Prop :=
  ∀ s : State,
    ([.ax0, .ax1, .ay0, .ay1, .ar, .mx0, .mx1, .my0, .my1, .mr0, .mr1, .si, .sr0, .sr1] : List DReg).map
        (fun r => s.dmdRead (.data r)) =
      [s.bank.ax0, s.bank.ax1, s.bank.ay0, s.bank.ay1, s.bank.ar, s.bank.mx0, s.bank.mx1, s.bank.my0,
        s.bank.my1, s.bank.mr0, s.bank.mr1, s.bank.si, s.bank.sr0, s.bank.sr1].map some ∧
    (∃ w, s.dmdRead (.data .mr2) = some w ∧ w.toInt = s.bank.mr2.toInt) ∧
    (∃ w, s.dmdRead (.data .se) = some w ∧ w.toInt = s.bank.se.toInt) ∧
    (∃ w, s.dmdRead (.status .sb) = some w ∧ w.toInt = s.bank.sb.toInt) ∧
    (∃ w, s.dmdRead (.status .astat) = some w ∧ w.toNat < 256 ∧ astatOfWord w = s.astat)

/-! ## Multifunction cycles -/

/-- A cycle in which two writers target one register or flag is refused (R47; D28). Two things in who counts as a
writer are the model's choice: a write that a rule makes on some states only (SE by EXP (LO), SB by EXPADJ, MR by the
saturation instruction) counts on every state, taken or not (log 7), and a load through the bus exchange unit counts as
the DMD load of its register (log 16). -/
def Obligations.TwoWritersRefused : Prop :=
  ∀ (op : Instr) (ts : List Transfer) (s : State), ¬(cycleWrites op ts).Nodup →
    cycle op ts s = .refused .twoWriters

/-- A multifunction cycle with any operation that executes and any list of transfers, over the DMD or the PMD
bus, in which no register or flag is written twice. With access to every register named it executes: every read
returns the register as it was at the start of the cycle, the operation does what it does alone, every register a
transfer loads holds the value loaded, in the bank selected at the start, and everything no transfer loads is as the
operation left it. With a transfer that lacks the access it is refused (R46, R47, R26, R45, R41; D3, D28; log 7, the
exchange unit log 16). -/
def Obligations.CycleReadsThenWrites : Prop :=
  ∀ (op : Instr) (ts : List Transfer) (s t : State), exec op s = .next t → (cycleWrites op ts).Nodup →
    ((∀ x ∈ ts, x.accessible = true) → ∃ u, cycle op ts s = .next (u, readsAt s ts) ∧
      (∀ x ∈ ts, ∀ r v, loadOf x = some (r, v) → LoadedWith s.mstat.secReg r v u) ∧
      SameOutside s.mstat.secReg (ts.flatMap transferWrites) t u) ∧
    ((∃ x ∈ ts, x.accessible = false) → ∃ r, cycle op ts s = .refused (.noBusAccess r))

/-- A PMD write of AY0, AY1, MY0 or MY1 is the DMD load of that register with the same value: it executes in
every cycle whose operation executes and does not write the register (R41). -/
def Obligations.PmdWriteIsDmdLoad : Prop :=
  ∀ (op : Instr) (r : PmdReg) (v : Word) (s t : State), exec op s = .next t →
    Loc.data (pmdTarget r) ∉ instrWrites op →
    cycle op [.pmdLoad r v] s = .next (t.loadData s.mstat.secReg (pmdTarget r) v, []) ∧
    cycle op [.pmdLoad r v] s = cycle op [.dmdLoad (.data (pmdTarget r)) v] s

/-- A PMD access through the exchange unit is the DMD access of the same register: in any cycle, on any state, the
one may stand for the other, be the cycle executed or refused. That the unit passes the value unchanged is the model's
choice (R41, R11, R12, R13, R17; log 16). -/
def Obligations.ExchangeAccessIsDmdAccess : Prop :=
  ∀ (op : Instr) (ts : List Transfer) (s : State), cycle op (ts.map overDmd) s = cycle op ts s
end

