-- ==== Sys2Proof/Laws/State.lean ====
section
/-! SUPPORT. One lemma per field per update of the state, so that no later proof unfolds an update. -/

namespace Sys2Proof.Machine

/-! ## `advance` -/

@[simp] theorem State.advance_primary (s : State) : s.advance.primary = s.primary := rfl
@[simp] theorem State.advance_secondary (s : State) : s.advance.secondary = s.secondary := rfl
@[simp] theorem State.advance_astat (s : State) : s.advance.astat = s.astat := rfl
@[simp] theorem State.advance_mstat (s : State) : s.advance.mstat = s.mstat := rfl
@[simp] theorem State.advance_biasrnd (s : State) : s.advance.biasrnd = s.biasrnd := rfl
@[simp] theorem State.advance_config (s : State) : s.advance.config = s.config := rfl
@[simp] theorem State.advance_prog (s : State) : s.advance.prog = s.prog := rfl
@[simp] theorem State.advance_idx (s : State) : s.advance.idx = s.idx + 1 := rfl
@[simp] theorem State.advance_bankAt (sec : Bool) (s : State) :
    s.advance.bankAt sec = s.bankAt sec := rfl
@[simp] theorem State.advance_bank (s : State) : s.advance.bank = s.bank := rfl

/-! ## Replacing a bank -/

@[simp] theorem State.setBankAt_astat (sec : Bool) (b : Bank) (s : State) :
    (s.setBankAt sec b).astat = s.astat := rfl
@[simp] theorem State.setBankAt_mstat (sec : Bool) (b : Bank) (s : State) :
    (s.setBankAt sec b).mstat = s.mstat := rfl
@[simp] theorem State.setBankAt_biasrnd (sec : Bool) (b : Bank) (s : State) :
    (s.setBankAt sec b).biasrnd = s.biasrnd := rfl
@[simp] theorem State.setBankAt_config (sec : Bool) (b : Bank) (s : State) :
    (s.setBankAt sec b).config = s.config := rfl
@[simp] theorem State.setBankAt_prog (sec : Bool) (b : Bank) (s : State) :
    (s.setBankAt sec b).prog = s.prog := rfl
@[simp] theorem State.setBankAt_idx (sec : Bool) (b : Bank) (s : State) :
    (s.setBankAt sec b).idx = s.idx := rfl
@[simp] theorem State.setBankAt_bankAt (sec : Bool) (b : Bank) (s : State) :
    (s.setBankAt sec b).bankAt sec = b := by cases sec <;> rfl
@[simp] theorem State.setBankAt_bankAt_other (sec : Bool) (b : Bank) (s : State) :
    (s.setBankAt sec b).bankAt (!sec) = s.bankAt (!sec) := by cases sec <;> rfl
@[simp] theorem State.setBankAt_self (sec : Bool) (s : State) :
    s.setBankAt sec (s.bankAt sec) = s := by cases sec <;> rfl
@[simp] theorem State.setBankAt_setBankAt (sec : Bool) (b b' : Bank) (s : State) :
    (s.setBankAt sec b).setBankAt sec b' = s.setBankAt sec b' := by cases sec <;> rfl
@[simp] theorem State.setBank_astat (b : Bank) (s : State) :
    (s.setBank b).astat = s.astat := rfl
@[simp] theorem State.setBank_mstat (b : Bank) (s : State) :
    (s.setBank b).mstat = s.mstat := rfl
@[simp] theorem State.setBank_biasrnd (b : Bank) (s : State) :
    (s.setBank b).biasrnd = s.biasrnd := rfl
@[simp] theorem State.setBank_config (b : Bank) (s : State) :
    (s.setBank b).config = s.config := rfl
@[simp] theorem State.setBank_prog (b : Bank) (s : State) :
    (s.setBank b).prog = s.prog := rfl
@[simp] theorem State.setBank_idx (b : Bank) (s : State) :
    (s.setBank b).idx = s.idx := rfl
@[simp] theorem State.setBank_bank (b : Bank) (s : State) : (s.setBank b).bank = b := by
  simp [State.setBank, State.bank]
@[simp] theorem State.setBank_bankAt_other (b : Bank) (s : State) :
    (s.setBank b).bankAt (!s.mstat.secReg) = s.bankAt (!s.mstat.secReg) := by
  simp [State.setBank]
@[simp] theorem State.setBank_self (s : State) : s.setBank s.bank = s := by
  simp [State.setBank, State.bank]
@[simp] theorem State.setBank_setBank (b b' : Bank) (s : State) :
    (s.setBank b).setBank b' = s.setBank b' := by
  simp [State.setBank]

/-! ## Replacing ASTAT, MSTAT or the position leaves the banks -/

@[simp] theorem State.withAstat_bankAt (sec : Bool) (a : Astat) (s : State) :
    ({ s with astat := a } : State).bankAt sec = s.bankAt sec := rfl
@[simp] theorem State.withAstat_bank (a : Astat) (s : State) :
    ({ s with astat := a } : State).bank = s.bank := rfl
@[simp] theorem State.withMstat_bankAt (sec : Bool) (m : Mstat) (s : State) :
    ({ s with mstat := m } : State).bankAt sec = s.bankAt sec := rfl

/-! ## MR and SR -/

@[simp] theorem Bank.setMr_mr (r : Accum) (b : Bank) : (b.setMr r).mr = r := by
  apply BitVec.eq_of_getLsbD_eq
  intro i hi
  simp only [Bank.mr, Bank.setMr, BitVec.getLsbD_append, BitVec.getLsbD_extractLsb']
  by_cases low : i < 16
  · simp [low]
  · by_cases mid : i < 32
    · have : i - 16 < 16 := by omega
      simp [low, this, show 16 + (i - 16) = i by omega]
    · have : ¬ i - 16 < 16 := by omega
      simp [low, this, show 32 + (i - 16 - 16) = i by omega]
      omega
@[simp] theorem Bank.setSr_sr (r : Long) (b : Bank) : (b.setSr r).sr = r := by
  apply BitVec.eq_of_getLsbD_eq
  intro i hi
  simp only [Bank.sr, Bank.setSr, BitVec.getLsbD_append, BitVec.getLsbD_extractLsb']
  by_cases low : i < 16
  · simp [low]
  · simp [low, show 16 + (i - 16) = i by omega]
    omega
@[simp] theorem Bank.setMr_ax0 (r : Accum) (b : Bank) : (b.setMr r).ax0 = b.ax0 := rfl
@[simp] theorem Bank.setMr_ax1 (r : Accum) (b : Bank) : (b.setMr r).ax1 = b.ax1 := rfl
@[simp] theorem Bank.setMr_ay0 (r : Accum) (b : Bank) : (b.setMr r).ay0 = b.ay0 := rfl
@[simp] theorem Bank.setMr_ay1 (r : Accum) (b : Bank) : (b.setMr r).ay1 = b.ay1 := rfl
@[simp] theorem Bank.setMr_ar (r : Accum) (b : Bank) : (b.setMr r).ar = b.ar := rfl
@[simp] theorem Bank.setMr_af (r : Accum) (b : Bank) : (b.setMr r).af = b.af := rfl
@[simp] theorem Bank.setMr_mx0 (r : Accum) (b : Bank) : (b.setMr r).mx0 = b.mx0 := rfl
@[simp] theorem Bank.setMr_mx1 (r : Accum) (b : Bank) : (b.setMr r).mx1 = b.mx1 := rfl
@[simp] theorem Bank.setMr_my0 (r : Accum) (b : Bank) : (b.setMr r).my0 = b.my0 := rfl
@[simp] theorem Bank.setMr_my1 (r : Accum) (b : Bank) : (b.setMr r).my1 = b.my1 := rfl
@[simp] theorem Bank.setMr_mf (r : Accum) (b : Bank) : (b.setMr r).mf = b.mf := rfl
@[simp] theorem Bank.setMr_si (r : Accum) (b : Bank) : (b.setMr r).si = b.si := rfl
@[simp] theorem Bank.setMr_sr0 (r : Accum) (b : Bank) : (b.setMr r).sr0 = b.sr0 := rfl
@[simp] theorem Bank.setMr_sr1 (r : Accum) (b : Bank) : (b.setMr r).sr1 = b.sr1 := rfl
@[simp] theorem Bank.setMr_se (r : Accum) (b : Bank) : (b.setMr r).se = b.se := rfl
@[simp] theorem Bank.setMr_sb (r : Accum) (b : Bank) : (b.setMr r).sb = b.sb := rfl
@[simp] theorem Bank.setSr_ax0 (r : Long) (b : Bank) : (b.setSr r).ax0 = b.ax0 := rfl
@[simp] theorem Bank.setSr_ax1 (r : Long) (b : Bank) : (b.setSr r).ax1 = b.ax1 := rfl
@[simp] theorem Bank.setSr_ay0 (r : Long) (b : Bank) : (b.setSr r).ay0 = b.ay0 := rfl
@[simp] theorem Bank.setSr_ay1 (r : Long) (b : Bank) : (b.setSr r).ay1 = b.ay1 := rfl
@[simp] theorem Bank.setSr_ar (r : Long) (b : Bank) : (b.setSr r).ar = b.ar := rfl
@[simp] theorem Bank.setSr_af (r : Long) (b : Bank) : (b.setSr r).af = b.af := rfl
@[simp] theorem Bank.setSr_mx0 (r : Long) (b : Bank) : (b.setSr r).mx0 = b.mx0 := rfl
@[simp] theorem Bank.setSr_mx1 (r : Long) (b : Bank) : (b.setSr r).mx1 = b.mx1 := rfl
@[simp] theorem Bank.setSr_my0 (r : Long) (b : Bank) : (b.setSr r).my0 = b.my0 := rfl
@[simp] theorem Bank.setSr_my1 (r : Long) (b : Bank) : (b.setSr r).my1 = b.my1 := rfl
@[simp] theorem Bank.setSr_mr0 (r : Long) (b : Bank) : (b.setSr r).mr0 = b.mr0 := rfl
@[simp] theorem Bank.setSr_mr1 (r : Long) (b : Bank) : (b.setSr r).mr1 = b.mr1 := rfl
@[simp] theorem Bank.setSr_mr2 (r : Long) (b : Bank) : (b.setSr r).mr2 = b.mr2 := rfl
@[simp] theorem Bank.setSr_mf (r : Long) (b : Bank) : (b.setSr r).mf = b.mf := rfl
@[simp] theorem Bank.setSr_si (r : Long) (b : Bank) : (b.setSr r).si = b.si := rfl
@[simp] theorem Bank.setSr_se (r : Long) (b : Bank) : (b.setSr r).se = b.se := rfl
@[simp] theorem Bank.setSr_sb (r : Long) (b : Bank) : (b.setSr r).sb = b.sb := rfl

/-! ## The run -/

theorem State.fetch_putWord (w : ProgWord) (s : State) : (s.putWord w).fetch = some w := by
  simp only [State.fetch, State.putWord]
  rw [List.getElem?_set_self]
  simp
  omega

/-- Placing a word changes nothing but the operation list. -/
theorem State.putWord_frame (w : ProgWord) (s : State) :
    s.putWord w = { s with prog := (s.putWord w).prog } := rfl

end Sys2Proof.Machine
end

