-- ==== Sys2Proof/Laws/Ops.lean ====
section
/-! SUPPORT. For each shared operation, one lemma that says once everything it can do. -/

namespace Sys2Proof.Machine

/-! ## Shared steps of the units -/

theorem State.aluStep_spec (dst : AluDst) (o : AluOut) (asBit : Option Bool) (s : State) :
    s.aluStep dst o asBit =
      { s.setBank (s.bank.setAlu dst s.mstat.arSat o) with
        astat := aluFlags s.mstat o asBit s.astat, idx := s.idx + 1 } := rfl

theorem State.divStep_spec (o : DivOut) (s : State) :
    s.divStep o =
      { s.setBank { s.bank with af := divAf o.r s.bank.ay0, ay0 := divAy0 s.bank.ay0 o.bit } with
        astat := { s.astat with AQ := o.q }, idx := s.idx + 1 } := rfl

theorem State.macWrite_spec (dst : MacDst) (r : Accum) (s : State) :
    s.macWrite dst r =
      { s.setBank (s.bank.setMac dst r) with
        astat := { s.astat with MV := mvOf r }, idx := s.idx + 1 } := rfl

theorem State.shiftWrite_spec (orSr : Bool) (a : Long) (s : State) :
    s.shiftWrite orSr a =
      { s.setBank (s.bank.setSr (orPass orSr s.bank.sr a)) with idx := s.idx + 1 } := rfl

theorem State.expWrite_spec (e : Int) (sign : Bool) (s : State) :
    s.expWrite e sign =
      { s.setBank { s.bank with se := BitVec.ofInt 8 e } with
        astat := { s.astat with SS := sign }, idx := s.idx + 1 } := rfl

/-- NORM runs exactly when SE is not −128; then it writes SR and nothing else. -/
theorem State.normStep_cases {orSr : Bool} {hl : HiLo} {x : ShX} {s t : State}
    (h : s.normStep orSr hl x = .next t) :
    s.bank.se.toInt ≠ -128 ∧
      t = s.shiftWrite orSr
        (shifterArray (s.bank.shX x) (-s.bank.se.toInt) hl (normExt hl s.astat.AC)) := by
  unfold State.normStep at h
  split at h
  · cases h
  · exact ⟨‹_›, by cases h; rfl⟩

/-- A load over the DMD bus reaches every register but AF and MF. -/
theorem State.dmdLoadAt_cases {sec : Bool} {r : Reg} {v : Word} {s t : State}
    (h : s.dmdLoadAt sec r v = some t) :
    (∃ d, r = .data d ∧ t = s.loadData sec d v) ∨ (∃ d, r = .status d ∧ t = s.loadStatus sec d v) := by
  cases r with
  | data d => exact .inl ⟨d, rfl, by simpa [State.dmdLoadAt] using h.symm⟩
  | status d => exact .inr ⟨d, rfl, by simpa [State.dmdLoadAt] using h.symm⟩
  | af => simp [State.dmdLoadAt] at h
  | mf => simp [State.dmdLoadAt] at h

/-- A load of a data register replaces the bank and nothing else. -/
theorem State.loadData_spec (sec : Bool) (r : DReg) (v : Word) (s : State) :
    s.loadData sec r v = s.setBankAt sec ((s.bankAt sec).load r v) := rfl

/-- A load of a status-group register replaces at most ASTAT, MSTAT and the bank. -/
theorem State.loadStatus_shape (sec : Bool) (r : SReg) (v : Word) (s : State) :
    ∃ b a m, s.loadStatus sec r v = { s.setBankAt sec b with astat := a, mstat := m } := by
  cases r with
  | astat => exact ⟨s.bankAt sec, astatOfWord v, s.mstat, by cases sec <;> rfl⟩
  | mstat => exact ⟨s.bankAt sec, s.astat, mstatOfWord v, by cases sec <;> rfl⟩
  | sb => exact ⟨_, s.astat, s.mstat, rfl⟩

/-- A MOVE that runs has read its source and loaded its destination. -/
theorem execMove_cases {dst src : Reg} {s t : State} (h : execMove dst src s = .next t) :
    ∃ w u, s.dmdRead src = some w ∧ s.dmdLoad dst w = some u ∧ t = u.advance := by
  unfold execMove at h
  cases hr : s.dmdRead src with
  | none => simp [hr] at h
  | some w =>
    cases hl : s.dmdLoad dst w with
    | none => simp [hr, hl] at h
    | some u => exact ⟨w, u, rfl, hl, by simpa [hr, hl] using h.symm⟩

/-- A DIVS that runs has its dividend's upper half in AY1 or AF. -/
theorem execDivs_cases {y : AluY} {x : AluX} {s t : State} (h : execDivs y x s = .next t) :
    y ≠ .ay0 ∧ t = s.divStep (divsOut (s.bank.aluX x) (s.bank.aluY y)) := by
  unfold execDivs at h
  split at h
  · cases h
  · exact ⟨‹_›, by cases h; rfl⟩

/-- A step that goes on has fetched a word, decoded it and run it. -/
theorem step_cases {s t : State} (h : step s = .next t) :
    ∃ w i, s.fetch = some w ∧ decode w = .ok i ∧ exec i s = .next t := by
  unfold step at h
  cases hf : s.fetch with
  | none => simp [hf] at h
  | some w =>
    cases hd : decode w with
    | error e => simp [hf, hd] at h
    | ok i => exact ⟨w, i, rfl, hd, by simpa [hf, hd] using h⟩

/-- What any instruction can do at all: it replaces the selected bank, ASTAT and MSTAT, and moves the
position on by one. -/
theorem exec_shape {i : Instr} {s t : State} (h : exec i s = .next t) :
    ∃ b a m, t = { s.setBank b with astat := a, mstat := m, idx := s.idx + 1 } := by
  cases i
  case divs y x => obtain ⟨-, rfl⟩ := execDivs_cases h; exact ⟨_, _, _, rfl⟩
  case normHi x => obtain ⟨-, rfl⟩ := State.normStep_cases h; exact ⟨_, _, _, rfl⟩
  case normHiOr x => obtain ⟨-, rfl⟩ := State.normStep_cases h; exact ⟨_, _, _, rfl⟩
  case normLo x => obtain ⟨-, rfl⟩ := State.normStep_cases h; exact ⟨_, _, _, rfl⟩
  case normLoOr x => obtain ⟨-, rfl⟩ := State.normStep_cases h; exact ⟨_, _, _, rfl⟩
  case loadimmSreg r v =>
    obtain ⟨b, a, m, hb⟩ := State.loadStatus_shape s.mstat.secReg r v s
    cases h
    exact ⟨b, a, m, by rw [hb]; rfl⟩
  case move dst src =>
    obtain ⟨w, u, -, hl, rfl⟩ := execMove_cases h
    obtain ⟨d, rfl, rfl⟩ | ⟨d, rfl, rfl⟩ := State.dmdLoadAt_cases hl
    · exact ⟨_, _, _, rfl⟩
    · obtain ⟨b, a, m, hb⟩ := State.loadStatus_shape s.mstat.secReg d w s
      exact ⟨b, a, m, by rw [hb]; rfl⟩
  all_goals
    cases h
    exact ⟨_, _, _, rfl⟩

end Sys2Proof.Machine
end

