-- ==== Sys2Proof/Laws/Cycle.lean ====
section
/-! SUPPORT. What the multifunction cycle and its two folds over the transfers can do. -/

namespace Sys2Proof.Machine

@[simp] theorem applyLoads_nil (sec : Bool) (t : State) : applyLoads sec [] t = .next t := rfl

theorem applyLoads_cons_load {x : Transfer} {r : Reg} {v : Word} (hx : loadOf x = some (r, v))
    {sec : Bool} {t t' : State} (hl : t.dmdLoadAt sec r v = some t') (ts : List Transfer) :
    applyLoads sec (x :: ts) t = applyLoads sec ts t' := by
  simp [applyLoads, hx, hl]

theorem applyLoads_cons_other {x : Transfer} (hx : loadOf x = none) (sec : Bool)
    (ts : List Transfer) (t : State) : applyLoads sec (x :: ts) t = applyLoads sec ts t := by
  simp [applyLoads, hx]

@[simp] theorem busReads_nil (s : State) : busReads s [] = .ok [] := rfl

theorem busReads_cons_read {x : Transfer} {r : Reg} (hx : readOf x = some r) {s : State} {w : Word}
    (hr : s.dmdRead r = some w) {ts : List Transfer} {ws : List Word} (hs : busReads s ts = .ok ws) :
    busReads s (x :: ts) = .ok (w :: ws) := by
  simp [busReads, hx, hr, hs]

theorem busReads_cons_other {x : Transfer} (hx : readOf x = none) (s : State) (ts : List Transfer) :
    busReads s (x :: ts) = busReads s ts := by
  simp [busReads, hx]

/-- A cycle that executes has no place with two writers, has read every register at its start, has run its
operation on that same state, and has applied its loads to what the operation left. -/
theorem cycle_cases {op : Instr} {ts : List Transfer} {s u : State} {ws : List Word}
    (h : cycle op ts s = .next (u, ws)) :
    (cycleWrites op ts).Nodup ∧ busReads s ts = .ok ws ∧
      ∃ t, exec op s = .next t ∧ applyLoads s.mstat.secReg ts t = .next u := by
  unfold cycle at h
  split at h
  case isFalse => cases h
  case isTrue hn =>
    cases hb : busReads s ts with
    | error r => simp [hb] at h
    | ok ws' =>
      cases he : exec op s with
      | fault f => simp [hb, he] at h
      | refused r => simp [hb, he] at h
      | next t =>
        cases ha : applyLoads s.mstat.secReg ts t with
        | fault f => simp [hb, he, ha] at h
        | refused r => simp [hb, he, ha] at h
        | next u' =>
          simp [hb, he, ha] at h
          exact ⟨hn, by rw [h.2], t, rfl, by rw [← h.1]; exact ha⟩

end Sys2Proof.Machine
end

