-- ==== Sys2Proof/Laws/PerInstr.lean ====
section
/-! SUPPORT. The statements made per instruction. EncodesToRow: the encoder agrees, on every fixed bit, with
the instruction's row of spec/opcode_table.json. The mask and match below are copied from the table, not
computed from the encoder. -/

namespace Sys2Proof.Laws

/-- The mask and the match of an instruction's row in spec/opcode_table.json. -/
def tableRow : Instr → ProgWord × ProgWord
  | .aluPassx _ _ => (0xFBF8FF, 0x22780F)
  | .aluNegx _ _ => (0xFBF8FF, 0x23380F)
  | .aluClear _ => (0xFBFFFF, 0x22180F)
  | .macClear _ => (0xFBFFFF, 0x20980F)
  | .aluAdd _ _ _ => (0xFBE0FF, 0x22600F)
  | .aluAddc _ _ _ => (0xFBE0FF, 0x22400F)
  | .aluSub _ _ _ => (0xFBE0FF, 0x22E00F)
  | .aluSubb _ _ _ => (0xFBE0FF, 0x22C00F)
  | .aluRsub _ _ _ => (0xFBE0FF, 0x23200F)
  | .aluRsubb _ _ _ => (0xFBE0FF, 0x23400F)
  | .aluNegy _ _ => (0xFBE7FF, 0x22A00F)
  | .aluIncy _ _ => (0xFBE7FF, 0x22200F)
  | .aluDecy _ _ => (0xFBE7FF, 0x23000F)
  | .aluPassy _ _ => (0xFBE7FF, 0x22000F)
  | .aluAbsx _ _ => (0xFBF8FF, 0x23E00F)
  | .aluAnd _ _ _ => (0xFBE0FF, 0x23800F)
  | .aluOr _ _ _ => (0xFBE0FF, 0x23A00F)
  | .aluXor _ _ _ => (0xFBE0FF, 0x23C00F)
  | .aluNotx _ _ => (0xFBF8FF, 0x23600F)
  | .aluNoty _ _ => (0xFBE7FF, 0x22800F)
  | .divs _ _ => (0xFFE0FF, 0x600000)
  | .divq _ => (0xFFF8FF, 0x710000)
  | .macMulSs _ _ _ => (0xFBE0FF, 0x20800F)
  | .macMulSu _ _ _ => (0xFBE0FF, 0x20A00F)
  | .macMulUs _ _ _ => (0xFBE0FF, 0x20C00F)
  | .macMulUu _ _ _ => (0xFBE0FF, 0x20E00F)
  | .macMulRnd _ _ _ => (0xFBE0FF, 0x20200F)
  | .macAddSs _ _ _ => (0xFBE0FF, 0x21000F)
  | .macAddSu _ _ _ => (0xFBE0FF, 0x21200F)
  | .macAddUs _ _ _ => (0xFBE0FF, 0x21400F)
  | .macAddUu _ _ _ => (0xFBE0FF, 0x21600F)
  | .macAddRnd _ _ _ => (0xFBE0FF, 0x20400F)
  | .macSubSs _ _ _ => (0xFBE0FF, 0x21800F)
  | .macSubSu _ _ _ => (0xFBE0FF, 0x21A00F)
  | .macSubUs _ _ _ => (0xFBE0FF, 0x21C00F)
  | .macSubUu _ _ _ => (0xFBE0FF, 0x21E00F)
  | .macSubRnd _ _ _ => (0xFBE0FF, 0x20600F)
  | .satMr => (0xFFFFFF, 0x050000)
  | .lshiftHi _ => (0xFFF8FF, 0x0E000F)
  | .lshiftHiOr _ => (0xFFF8FF, 0x0E080F)
  | .lshiftLo _ => (0xFFF8FF, 0x0E100F)
  | .lshiftLoOr _ => (0xFFF8FF, 0x0E180F)
  | .ashiftHi _ => (0xFFF8FF, 0x0E200F)
  | .ashiftHiOr _ => (0xFFF8FF, 0x0E280F)
  | .ashiftLo _ => (0xFFF8FF, 0x0E300F)
  | .ashiftLoOr _ => (0xFFF8FF, 0x0E380F)
  | .normHi _ => (0xFFF8FF, 0x0E400F)
  | .normHiOr _ => (0xFFF8FF, 0x0E480F)
  | .normLo _ => (0xFFF8FF, 0x0E500F)
  | .normLoOr _ => (0xFFF8FF, 0x0E580F)
  | .expHi _ => (0xFFF8FF, 0x0E600F)
  | .expHix _ => (0xFFF8FF, 0x0E680F)
  | .expLo _ => (0xFFF8FF, 0x0E700F)
  | .expadj _ => (0xFFF8FF, 0x0E780F)
  | .lshiftHiImm _ _ => (0xFFF800, 0x0F0000)
  | .lshiftHiOrImm _ _ => (0xFFF800, 0x0F0800)
  | .lshiftLoImm _ _ => (0xFFF800, 0x0F1000)
  | .lshiftLoOrImm _ _ => (0xFFF800, 0x0F1800)
  | .ashiftHiImm _ _ => (0xFFF800, 0x0F2000)
  | .ashiftHiOrImm _ _ => (0xFFF800, 0x0F2800)
  | .ashiftLoImm _ _ => (0xFFF800, 0x0F3000)
  | .ashiftLoOrImm _ _ => (0xFFF800, 0x0F3800)
  | .loadimmDreg _ _ => (0xF00000, 0x400000)
  | .loadimmSreg _ _ => (0xFC0000, 0x3C0000)
  | .move _ _ => (0xFFF000, 0x0D0000)

/-- A mask that is zero on the low field leaves only the high field. -/
theorem append_mask {n k : Nat} (a m : BitVec n) (b : BitVec k) :
    (a ++ b) &&& (m ++ 0#k) = (a &&& m) ++ 0#k := by
  ext i hi
  simp only [BitVec.getElem_and, BitVec.getElem_append, BitVec.getElem_zero]
  split <;> simp

/-- Under its row's mask the word of a well-formed instruction is its row's match. -/
def EncodesToRow.Statement (i : Instr) : Prop :=
  i.wellFormed = true → encode i &&& (tableRow i).1 = (tableRow i).2

theorem EncodesToRow.aluPassx (dst : AluDst) (x : AluX) : EncodesToRow.Statement (.aluPassx dst x) := by
  intro _
  cases dst <;> cases x <;> rfl

theorem EncodesToRow.aluNegx (dst : AluDst) (x : AluX) : EncodesToRow.Statement (.aluNegx dst x) := by
  intro _
  cases dst <;> cases x <;> rfl

theorem EncodesToRow.aluClear (dst : AluDst) : EncodesToRow.Statement (.aluClear dst) := by
  intro _
  cases dst <;> rfl

theorem EncodesToRow.macClear (dst : MacDst) : EncodesToRow.Statement (.macClear dst) := by
  intro _
  cases dst <;> rfl

theorem EncodesToRow.aluAdd (dst : AluDst) (x : AluX) (y : AluY) : EncodesToRow.Statement (.aluAdd dst x y) := by
  intro _
  cases dst <;> cases x <;> cases y <;> rfl

theorem EncodesToRow.aluAddc (dst : AluDst) (x : AluX) (y : AluY) : EncodesToRow.Statement (.aluAddc dst x y) := by
  intro _
  cases dst <;> cases x <;> cases y <;> rfl

theorem EncodesToRow.aluSub (dst : AluDst) (x : AluX) (y : AluY) : EncodesToRow.Statement (.aluSub dst x y) := by
  intro _
  cases dst <;> cases x <;> cases y <;> rfl

theorem EncodesToRow.aluSubb (dst : AluDst) (x : AluX) (y : AluY) : EncodesToRow.Statement (.aluSubb dst x y) := by
  intro _
  cases dst <;> cases x <;> cases y <;> rfl

theorem EncodesToRow.aluRsub (dst : AluDst) (x : AluX) (y : AluY) : EncodesToRow.Statement (.aluRsub dst x y) := by
  intro _
  cases dst <;> cases x <;> cases y <;> rfl

theorem EncodesToRow.aluRsubb (dst : AluDst) (x : AluX) (y : AluY) : EncodesToRow.Statement (.aluRsubb dst x y) := by
  intro _
  cases dst <;> cases x <;> cases y <;> rfl

theorem EncodesToRow.aluNegy (dst : AluDst) (y : AluY) : EncodesToRow.Statement (.aluNegy dst y) := by
  intro _
  cases dst <;> cases y <;> rfl

theorem EncodesToRow.aluIncy (dst : AluDst) (y : AluY) : EncodesToRow.Statement (.aluIncy dst y) := by
  intro _
  cases dst <;> cases y <;> rfl

theorem EncodesToRow.aluDecy (dst : AluDst) (y : AluY) : EncodesToRow.Statement (.aluDecy dst y) := by
  intro _
  cases dst <;> cases y <;> rfl

theorem EncodesToRow.aluPassy (dst : AluDst) (y : AluY) : EncodesToRow.Statement (.aluPassy dst y) := by
  intro _
  cases dst <;> cases y <;> rfl

theorem EncodesToRow.aluAbsx (dst : AluDst) (x : AluX) : EncodesToRow.Statement (.aluAbsx dst x) := by
  intro _
  cases dst <;> cases x <;> rfl

theorem EncodesToRow.aluAnd (dst : AluDst) (x : AluX) (y : AluY) : EncodesToRow.Statement (.aluAnd dst x y) := by
  intro _
  cases dst <;> cases x <;> cases y <;> rfl

theorem EncodesToRow.aluOr (dst : AluDst) (x : AluX) (y : AluY) : EncodesToRow.Statement (.aluOr dst x y) := by
  intro _
  cases dst <;> cases x <;> cases y <;> rfl

theorem EncodesToRow.aluXor (dst : AluDst) (x : AluX) (y : AluY) : EncodesToRow.Statement (.aluXor dst x y) := by
  intro _
  cases dst <;> cases x <;> cases y <;> rfl

theorem EncodesToRow.aluNotx (dst : AluDst) (x : AluX) : EncodesToRow.Statement (.aluNotx dst x) := by
  intro _
  cases dst <;> cases x <;> rfl

theorem EncodesToRow.aluNoty (dst : AluDst) (y : AluY) : EncodesToRow.Statement (.aluNoty dst y) := by
  intro _
  cases dst <;> cases y <;> rfl

theorem EncodesToRow.divs (y : AluY) (x : AluX) : EncodesToRow.Statement (.divs y x) := by
  intro _
  cases y <;> cases x <;> rfl

theorem EncodesToRow.divq (x : AluX) : EncodesToRow.Statement (.divq x) := by
  intro _
  cases x <;> rfl

theorem EncodesToRow.macMulSs (dst : MacDst) (x : MacX) (y : MacY) : EncodesToRow.Statement (.macMulSs dst x y) := by
  intro _
  cases dst <;> cases x <;> cases y <;> rfl

theorem EncodesToRow.macMulSu (dst : MacDst) (x : MacX) (y : MacY) : EncodesToRow.Statement (.macMulSu dst x y) := by
  intro _
  cases dst <;> cases x <;> cases y <;> rfl

theorem EncodesToRow.macMulUs (dst : MacDst) (x : MacX) (y : MacY) : EncodesToRow.Statement (.macMulUs dst x y) := by
  intro _
  cases dst <;> cases x <;> cases y <;> rfl

theorem EncodesToRow.macMulUu (dst : MacDst) (x : MacX) (y : MacY) : EncodesToRow.Statement (.macMulUu dst x y) := by
  intro _
  cases dst <;> cases x <;> cases y <;> rfl

theorem EncodesToRow.macMulRnd (dst : MacDst) (x : MacX) (y : MacY) : EncodesToRow.Statement (.macMulRnd dst x y) := by
  intro _
  cases dst <;> cases x <;> cases y <;> rfl

theorem EncodesToRow.macAddSs (dst : MacDst) (x : MacX) (y : MacY) : EncodesToRow.Statement (.macAddSs dst x y) := by
  intro _
  cases dst <;> cases x <;> cases y <;> rfl

theorem EncodesToRow.macAddSu (dst : MacDst) (x : MacX) (y : MacY) : EncodesToRow.Statement (.macAddSu dst x y) := by
  intro _
  cases dst <;> cases x <;> cases y <;> rfl

theorem EncodesToRow.macAddUs (dst : MacDst) (x : MacX) (y : MacY) : EncodesToRow.Statement (.macAddUs dst x y) := by
  intro _
  cases dst <;> cases x <;> cases y <;> rfl

theorem EncodesToRow.macAddUu (dst : MacDst) (x : MacX) (y : MacY) : EncodesToRow.Statement (.macAddUu dst x y) := by
  intro _
  cases dst <;> cases x <;> cases y <;> rfl

theorem EncodesToRow.macAddRnd (dst : MacDst) (x : MacX) (y : MacY) : EncodesToRow.Statement (.macAddRnd dst x y) := by
  intro _
  cases dst <;> cases x <;> cases y <;> rfl

theorem EncodesToRow.macSubSs (dst : MacDst) (x : MacX) (y : MacY) : EncodesToRow.Statement (.macSubSs dst x y) := by
  intro _
  cases dst <;> cases x <;> cases y <;> rfl

theorem EncodesToRow.macSubSu (dst : MacDst) (x : MacX) (y : MacY) : EncodesToRow.Statement (.macSubSu dst x y) := by
  intro _
  cases dst <;> cases x <;> cases y <;> rfl

theorem EncodesToRow.macSubUs (dst : MacDst) (x : MacX) (y : MacY) : EncodesToRow.Statement (.macSubUs dst x y) := by
  intro _
  cases dst <;> cases x <;> cases y <;> rfl

theorem EncodesToRow.macSubUu (dst : MacDst) (x : MacX) (y : MacY) : EncodesToRow.Statement (.macSubUu dst x y) := by
  intro _
  cases dst <;> cases x <;> cases y <;> rfl

theorem EncodesToRow.macSubRnd (dst : MacDst) (x : MacX) (y : MacY) : EncodesToRow.Statement (.macSubRnd dst x y) := by
  intro _
  cases dst <;> cases x <;> cases y <;> rfl

theorem EncodesToRow.satMr : EncodesToRow.Statement .satMr := by
  intro _
  rfl

theorem EncodesToRow.lshiftHi (x : ShX) : EncodesToRow.Statement (.lshiftHi x) := by
  intro _
  cases x <;> rfl

theorem EncodesToRow.lshiftHiOr (x : ShX) : EncodesToRow.Statement (.lshiftHiOr x) := by
  intro _
  cases x <;> rfl

theorem EncodesToRow.lshiftLo (x : ShX) : EncodesToRow.Statement (.lshiftLo x) := by
  intro _
  cases x <;> rfl

theorem EncodesToRow.lshiftLoOr (x : ShX) : EncodesToRow.Statement (.lshiftLoOr x) := by
  intro _
  cases x <;> rfl

theorem EncodesToRow.ashiftHi (x : ShX) : EncodesToRow.Statement (.ashiftHi x) := by
  intro _
  cases x <;> rfl

theorem EncodesToRow.ashiftHiOr (x : ShX) : EncodesToRow.Statement (.ashiftHiOr x) := by
  intro _
  cases x <;> rfl

theorem EncodesToRow.ashiftLo (x : ShX) : EncodesToRow.Statement (.ashiftLo x) := by
  intro _
  cases x <;> rfl

theorem EncodesToRow.ashiftLoOr (x : ShX) : EncodesToRow.Statement (.ashiftLoOr x) := by
  intro _
  cases x <;> rfl

theorem EncodesToRow.normHi (x : ShX) : EncodesToRow.Statement (.normHi x) := by
  intro _
  cases x <;> rfl

theorem EncodesToRow.normHiOr (x : ShX) : EncodesToRow.Statement (.normHiOr x) := by
  intro _
  cases x <;> rfl

theorem EncodesToRow.normLo (x : ShX) : EncodesToRow.Statement (.normLo x) := by
  intro _
  cases x <;> rfl

theorem EncodesToRow.normLoOr (x : ShX) : EncodesToRow.Statement (.normLoOr x) := by
  intro _
  cases x <;> rfl

theorem EncodesToRow.expHi (x : ShX) : EncodesToRow.Statement (.expHi x) := by
  intro _
  cases x <;> rfl

theorem EncodesToRow.expHix (x : ShX) : EncodesToRow.Statement (.expHix x) := by
  intro _
  cases x <;> rfl

theorem EncodesToRow.expLo (x : ShX) : EncodesToRow.Statement (.expLo x) := by
  intro _
  cases x <;> rfl

theorem EncodesToRow.expadj (x : ShX) : EncodesToRow.Statement (.expadj x) := by
  intro _
  cases x <;> rfl

theorem EncodesToRow.lshiftHiImm (x : ShX) (exp : BitVec 8) : EncodesToRow.Statement (.lshiftHiImm x exp) := by
  intro _
  exact (append_mask (0x0F#8 ++ 0#1 ++ 0#4 ++ shXCode x) 0xFFF8#16 exp).trans
    (by cases x <;> rfl)

theorem EncodesToRow.lshiftHiOrImm (x : ShX) (exp : BitVec 8) : EncodesToRow.Statement (.lshiftHiOrImm x exp) := by
  intro _
  exact (append_mask (0x0F#8 ++ 0#1 ++ 1#4 ++ shXCode x) 0xFFF8#16 exp).trans
    (by cases x <;> rfl)

theorem EncodesToRow.lshiftLoImm (x : ShX) (exp : BitVec 8) : EncodesToRow.Statement (.lshiftLoImm x exp) := by
  intro _
  exact (append_mask (0x0F#8 ++ 0#1 ++ 2#4 ++ shXCode x) 0xFFF8#16 exp).trans
    (by cases x <;> rfl)

theorem EncodesToRow.lshiftLoOrImm (x : ShX) (exp : BitVec 8) : EncodesToRow.Statement (.lshiftLoOrImm x exp) := by
  intro _
  exact (append_mask (0x0F#8 ++ 0#1 ++ 3#4 ++ shXCode x) 0xFFF8#16 exp).trans
    (by cases x <;> rfl)

theorem EncodesToRow.ashiftHiImm (x : ShX) (exp : BitVec 8) : EncodesToRow.Statement (.ashiftHiImm x exp) := by
  intro _
  exact (append_mask (0x0F#8 ++ 0#1 ++ 4#4 ++ shXCode x) 0xFFF8#16 exp).trans
    (by cases x <;> rfl)

theorem EncodesToRow.ashiftHiOrImm (x : ShX) (exp : BitVec 8) : EncodesToRow.Statement (.ashiftHiOrImm x exp) := by
  intro _
  exact (append_mask (0x0F#8 ++ 0#1 ++ 5#4 ++ shXCode x) 0xFFF8#16 exp).trans
    (by cases x <;> rfl)

theorem EncodesToRow.ashiftLoImm (x : ShX) (exp : BitVec 8) : EncodesToRow.Statement (.ashiftLoImm x exp) := by
  intro _
  exact (append_mask (0x0F#8 ++ 0#1 ++ 6#4 ++ shXCode x) 0xFFF8#16 exp).trans
    (by cases x <;> rfl)

theorem EncodesToRow.ashiftLoOrImm (x : ShX) (exp : BitVec 8) : EncodesToRow.Statement (.ashiftLoOrImm x exp) := by
  intro _
  exact (append_mask (0x0F#8 ++ 0#1 ++ 7#4 ++ shXCode x) 0xFFF8#16 exp).trans
    (by cases x <;> rfl)

theorem EncodesToRow.loadimmDreg (r : DReg) (v : Word) : EncodesToRow.Statement (.loadimmDreg r v) := by
  intro _
  exact (append_mask (0b0100#4 ++ v) (0b1111#4 ++ 0#16) (dregCode r)).trans
    (congrArg (· ++ 0#4) (append_mask 0b0100#4 0b1111#4 v))

theorem EncodesToRow.loadimmSreg (r : SReg) (v : Word) : EncodesToRow.Statement (.loadimmSreg r v) := by
  intro _
  exact (append_mask (0b001111#6 ++ v.truncate 14) (0b111111#6 ++ 0#14) (sregCode r)).trans
    (congrArg (· ++ 0#4) (append_mask 0b001111#6 0b111111#6 (v.truncate 14)))

theorem EncodesToRow.move (dst : Reg) (src : Reg) : EncodesToRow.Statement (.move dst src) := by
  intro _
  rcases dst with r | r | _ | _ <;> rcases src with q | q | _ | _ <;>
    first | (cases r <;> cases q <;> rfl) | (cases r <;> rfl) | (cases q <;> rfl) | rfl

end Sys2Proof.Laws
end

