-- ==== Sys2Proof/Laws/Safety.lean ====
section
/-! SUPPORT. The small lemmas of the terms claims are made in. -/

namespace Sys2Proof.Machine

/-- A change of the selected bank, in the words of the meanings. -/
theorem onSelected_eq_setBank (f : Bank → Bank) (s : State) : onSelected f s = s.setBank (f s.bank) := by
  unfold onSelected State.setBank State.setBankAt State.bank State.bankAt
  cases s.mstat.secReg <;> rfl

@[simp] theorem execList_nil (s : State) : execList [] s = .next s := rfl

theorem execList_cons {i : Instr} {s t : State} (h : exec i s = .next t) (is : List Instr) :
    execList (i :: is) s = execList is t := by
  simp [execList, h]

/-- Two lists run one after the other. -/
theorem execList_append {is : List Instr} {s t : State} (h : execList is s = .next t) (js : List Instr) :
    execList (is ++ js) s = execList js t := by
  induction is generalizing s with
  | nil => cases h; rfl
  | cons i is ih =>
    cases he : exec i s with
    | next u => exact (execList_cons he _).trans (ih ((execList_cons he is).symm.trans h))
    | fault f => simp [execList, he] at h
    | refused r => simp [execList, he] at h

end Sys2Proof.Machine
end

