-- ==== Sys2Proof/Tests/Slice0.lean ====
section
/-! SUPPORT. The author's own tests: a refused term for each well-formedness check; a word written out from
the table's encoding for every constructor; one step of every instruction with the result the spec prints in
95_test_vectors.md; and for every obligation with hypotheses a state and operands that meet them. -/

open Sys2Proof Sys2Proof.Machine

namespace Sys2Proof.Tests

/-! ## Helpers -/

/-- What a meaning leaves, seen through `f`; nothing when it stops. -/
def obs {α : Type} (r : Result) (f : State → α) : Option α :=
  match r with
  | .next t => some (f t)
  | .fault _ => none
  | .refused _ => none

/-- The reset state with another primary bank. -/
def withBank (f : Bank → Bank) : State := { State.reset with primary := f Bank.reset }

/-- AX0, AY0 and AC for an ALU vector. -/
def aluState (x y : Word) (c : Bool) : State :=
  { withBank (fun b => { b with ax0 := x, ay0 := y }) with astat := { Astat.reset with AC := c } }

/-- AR, AF and the flags AZ, AN, AV, AC, AS. -/
def aluObs (t : State) : Word × Word × List Bool :=
  (t.primary.ar, t.primary.af, [t.astat.AZ, t.astat.AN, t.astat.AV, t.astat.AC, t.astat.AS])

/-- AR saturation mode on. -/
def satMode (s : State) : State := { s with mstat := { s.mstat with arSat := true } }

/-- MX0, MY0, MR and the MAC mode for a MAC vector. -/
def macState (x y : Word) (mr : Accum) (mMode : Bool) : State :=
  { withBank (fun b => { b.setMr mr with mx0 := x, my0 := y }) with
    mstat := { Mstat.reset with mMode := mMode } }

/-- MR, MF and MV. -/
def macObs (t : State) : Accum × Word × Bool := (t.primary.mr, t.primary.mf, t.astat.MV)

/-- SI, SE, SR and the flags AC, AV, SS for a shifter vector. -/
def shState (si : Word) (se : Int) (sr : Long) (ac av ss : Bool) : State :=
  { withBank (fun b => { b.setSr sr with si := si, se := BitVec.ofInt 8 se }) with
    astat := { Astat.reset with AC := ac, AV := av, SS := ss } }

/-- SR. -/
def srObs (t : State) : Long := t.primary.sr

/-- SE, SB and SS. -/
def expObs (t : State) : BitVec 8 × BitVec 5 × Bool := (t.primary.se, t.primary.sb, t.astat.SS)

/-! ## Well-formedness: an ill-formed term for each check -/

theorem test_wf_divs_ay0 : (Instr.divs .ay0 .ax0).wellFormed = false := by decide
theorem test_wf_move_to_af : (Instr.move .af (.data .ar)).wellFormed = false := by decide
theorem test_wf_move_to_mf : (Instr.move .mf (.data .ar)).wellFormed = false := by decide
theorem test_wf_move_from_af : (Instr.move (.data .ar) .af).wellFormed = false := by decide
theorem test_wf_move_from_mf : (Instr.move (.data .ar) .mf).wellFormed = false := by decide
theorem test_wf_move_from_mstat : (Instr.move (.data .ar) (.status .mstat)).wellFormed = false := by
  decide
theorem test_wf_sreg_constant_too_wide : (Instr.loadimmSreg .sb 0x2000).wellFormed = false := by decide
theorem test_wf_sreg_constant_negative : (Instr.loadimmSreg .sb 0xE000).wellFormed = true := by decide

/-! ## Decoding: one word of every row, its bits written from the table's encoding -/

theorem test_decode_aluPassx :
    decodeTableWord 24 0b001001100111110100001111 = some (.aluPassx .af .mr2) := by decide
theorem test_decode_aluNegx :
    decodeTableWord 24 0b001001110011110100001111 = some (.aluNegx .af .mr2) := by decide
theorem test_decode_aluClear :
    decodeTableWord 24 0b001001100001100000001111 = some (.aluClear .af) := by decide
theorem test_decode_macClear :
    decodeTableWord 24 0b001001001001100000001111 = some (.macClear .mf) := by decide
theorem test_decode_aluAdd :
    decodeTableWord 24 0b001001100110110100001111 = some (.aluAdd .af .mr2 .ay1) := by decide
theorem test_decode_aluAddc :
    decodeTableWord 24 0b001001100100110100001111 = some (.aluAddc .af .mr2 .ay1) := by decide
theorem test_decode_aluSub :
    decodeTableWord 24 0b001001101110110100001111 = some (.aluSub .af .mr2 .ay1) := by decide
theorem test_decode_aluSubb :
    decodeTableWord 24 0b001001101100110100001111 = some (.aluSubb .af .mr2 .ay1) := by decide
theorem test_decode_aluRsub :
    decodeTableWord 24 0b001001110010110100001111 = some (.aluRsub .af .mr2 .ay1) := by decide
theorem test_decode_aluRsubb :
    decodeTableWord 24 0b001001110100110100001111 = some (.aluRsubb .af .mr2 .ay1) := by decide
theorem test_decode_aluNegy :
    decodeTableWord 24 0b001001101010100000001111 = some (.aluNegy .af .ay1) := by decide
theorem test_decode_aluIncy :
    decodeTableWord 24 0b001001100010100000001111 = some (.aluIncy .af .ay1) := by decide
theorem test_decode_aluDecy :
    decodeTableWord 24 0b001001110000100000001111 = some (.aluDecy .af .ay1) := by decide
theorem test_decode_aluPassy :
    decodeTableWord 24 0b001001100000100000001111 = some (.aluPassy .af .ay1) := by decide
theorem test_decode_aluAbsx :
    decodeTableWord 24 0b001001111110010100001111 = some (.aluAbsx .af .mr2) := by decide
theorem test_decode_aluAnd :
    decodeTableWord 24 0b001001111000110100001111 = some (.aluAnd .af .mr2 .ay1) := by decide
theorem test_decode_aluOr :
    decodeTableWord 24 0b001001111010110100001111 = some (.aluOr .af .mr2 .ay1) := by decide
theorem test_decode_aluXor :
    decodeTableWord 24 0b001001111100110100001111 = some (.aluXor .af .mr2 .ay1) := by decide
theorem test_decode_aluNotx :
    decodeTableWord 24 0b001001110110010100001111 = some (.aluNotx .af .mr2) := by decide
theorem test_decode_aluNoty :
    decodeTableWord 24 0b001001101000100000001111 = some (.aluNoty .af .ay1) := by decide
theorem test_decode_divs :
    decodeTableWord 24 0b011000000000110100000000 = some (.divs .ay1 .mr2) := by decide
theorem test_decode_divq :
    decodeTableWord 24 0b011100010000010100000000 = some (.divq .mr2) := by decide
theorem test_decode_macMulSs :
    decodeTableWord 24 0b001001001001011100001111 = some (.macMulSs .mf .sr1 .mf) := by decide
theorem test_decode_macMulSu :
    decodeTableWord 24 0b001001001011011100001111 = some (.macMulSu .mf .sr1 .mf) := by decide
theorem test_decode_macMulUs :
    decodeTableWord 24 0b001001001101011100001111 = some (.macMulUs .mf .sr1 .mf) := by decide
theorem test_decode_macMulUu :
    decodeTableWord 24 0b001001001111011100001111 = some (.macMulUu .mf .sr1 .mf) := by decide
theorem test_decode_macMulRnd :
    decodeTableWord 24 0b001001000011011100001111 = some (.macMulRnd .mf .sr1 .mf) := by decide
theorem test_decode_macAddSs :
    decodeTableWord 24 0b001001010001011100001111 = some (.macAddSs .mf .sr1 .mf) := by decide
theorem test_decode_macAddSu :
    decodeTableWord 24 0b001001010011011100001111 = some (.macAddSu .mf .sr1 .mf) := by decide
theorem test_decode_macAddUs :
    decodeTableWord 24 0b001001010101011100001111 = some (.macAddUs .mf .sr1 .mf) := by decide
theorem test_decode_macAddUu :
    decodeTableWord 24 0b001001010111011100001111 = some (.macAddUu .mf .sr1 .mf) := by decide
theorem test_decode_macAddRnd :
    decodeTableWord 24 0b001001000101011100001111 = some (.macAddRnd .mf .sr1 .mf) := by decide
theorem test_decode_macSubSs :
    decodeTableWord 24 0b001001011001011100001111 = some (.macSubSs .mf .sr1 .mf) := by decide
theorem test_decode_macSubSu :
    decodeTableWord 24 0b001001011011011100001111 = some (.macSubSu .mf .sr1 .mf) := by decide
theorem test_decode_macSubUs :
    decodeTableWord 24 0b001001011101011100001111 = some (.macSubUs .mf .sr1 .mf) := by decide
theorem test_decode_macSubUu :
    decodeTableWord 24 0b001001011111011100001111 = some (.macSubUu .mf .sr1 .mf) := by decide
theorem test_decode_macSubRnd :
    decodeTableWord 24 0b001001000111011100001111 = some (.macSubRnd .mf .sr1 .mf) := by decide
theorem test_decode_satMr :
    decodeTableWord 24 0b000001010000000000000000 = some .satMr := by decide
theorem test_decode_lshiftHi :
    decodeTableWord 24 0b000011100000010000001111 = some (.lshiftHi .mr1) := by decide
theorem test_decode_lshiftHiOr :
    decodeTableWord 24 0b000011100000110000001111 = some (.lshiftHiOr .mr1) := by decide
theorem test_decode_lshiftLo :
    decodeTableWord 24 0b000011100001010000001111 = some (.lshiftLo .mr1) := by decide
theorem test_decode_lshiftLoOr :
    decodeTableWord 24 0b000011100001110000001111 = some (.lshiftLoOr .mr1) := by decide
theorem test_decode_ashiftHi :
    decodeTableWord 24 0b000011100010010000001111 = some (.ashiftHi .mr1) := by decide
theorem test_decode_ashiftHiOr :
    decodeTableWord 24 0b000011100010110000001111 = some (.ashiftHiOr .mr1) := by decide
theorem test_decode_ashiftLo :
    decodeTableWord 24 0b000011100011010000001111 = some (.ashiftLo .mr1) := by decide
theorem test_decode_ashiftLoOr :
    decodeTableWord 24 0b000011100011110000001111 = some (.ashiftLoOr .mr1) := by decide
theorem test_decode_normHi :
    decodeTableWord 24 0b000011100100010000001111 = some (.normHi .mr1) := by decide
theorem test_decode_normHiOr :
    decodeTableWord 24 0b000011100100110000001111 = some (.normHiOr .mr1) := by decide
theorem test_decode_normLo :
    decodeTableWord 24 0b000011100101010000001111 = some (.normLo .mr1) := by decide
theorem test_decode_normLoOr :
    decodeTableWord 24 0b000011100101110000001111 = some (.normLoOr .mr1) := by decide
theorem test_decode_expHi :
    decodeTableWord 24 0b000011100110010000001111 = some (.expHi .mr1) := by decide
theorem test_decode_expHix :
    decodeTableWord 24 0b000011100110110000001111 = some (.expHix .mr1) := by decide
theorem test_decode_expLo :
    decodeTableWord 24 0b000011100111010000001111 = some (.expLo .mr1) := by decide
theorem test_decode_expadj :
    decodeTableWord 24 0b000011100111110000001111 = some (.expadj .mr1) := by decide
theorem test_decode_lshiftHiImm :
    decodeTableWord 24 0b000011110000010011111011 = some (.lshiftHiImm .mr1 0xFB) := by decide
theorem test_decode_lshiftHiOrImm :
    decodeTableWord 24 0b000011110000110011111011 = some (.lshiftHiOrImm .mr1 0xFB) := by decide
theorem test_decode_lshiftLoImm :
    decodeTableWord 24 0b000011110001010011111011 = some (.lshiftLoImm .mr1 0xFB) := by decide
theorem test_decode_lshiftLoOrImm :
    decodeTableWord 24 0b000011110001110011111011 = some (.lshiftLoOrImm .mr1 0xFB) := by decide
theorem test_decode_ashiftHiImm :
    decodeTableWord 24 0b000011110010010011111011 = some (.ashiftHiImm .mr1 0xFB) := by decide
theorem test_decode_ashiftHiOrImm :
    decodeTableWord 24 0b000011110010110011111011 = some (.ashiftHiOrImm .mr1 0xFB) := by decide
theorem test_decode_ashiftLoImm :
    decodeTableWord 24 0b000011110011010011111011 = some (.ashiftLoImm .mr1 0xFB) := by decide
theorem test_decode_ashiftLoOrImm :
    decodeTableWord 24 0b000011110011110011111011 = some (.ashiftLoOrImm .mr1 0xFB) := by decide
theorem test_decode_loadimmDreg :
    decodeTableWord 24 0b010000010010001101001010 = some (.loadimmDreg .ar 0x1234) := by decide
theorem test_decode_loadimmSreg :
    decodeTableWord 24 0b001111111111111100000110 = some (.loadimmSreg .sb 0xFFF0) := by decide
theorem test_decode_move :
    decodeTableWord 24 0b000011010000001110010110 = some (.move (.data .se) (.status .sb)) := by decide

/-- The word of each reason for a refusal (R71). -/
theorem test_decode_refusals :
    [decode 0x226000, decode 0x227A0F, decode 0x20000F, decode 0x000000] =
      [.error .conditionalForm, .ok (.aluPassx .ar .ar), .error .noOperation, .error .notInSource] := rfl

theorem test_decode_y_zero : decode 0x22F80F = .error .yZeroForm := rfl
theorem test_decode_no_operation_y_zero : decode 0x20180F = .error .noOperation := rfl
theorem test_decode_clear_with_x : decode 0x20990F = .error .notInSource := rfl
theorem test_decode_divs_ay0 : decode 0x600000 = .error .notInSource := rfl
theorem test_decode_shifter_bad_x : decode 0x0E010F = .error .notInSource := rfl
theorem test_decode_move_from_mstat : decode 0x0D0301 = .error .notInSource := rfl
theorem test_decode_too_wide : decodeTableWord 24 0x1000000 = none := by decide

/-! ## One step of every instruction

The results are those of 95_test_vectors.md sections 1 to 6, but for these, worked by hand from the rule named:
ADD and SUB in the formats US and SU (R148, R150, from the printed products), the [SR OR] forms of LSHIFT (HI),
ASHIFT (LO) and NORM (HI) (R176, from the printed arrays). -/

theorem test_add : obs (exec (.aluAdd .ar .ax0 .ay0) (aluState 0x8000 0x8000 false)) aluObs =
    some (0x0000, 0x0000, [true, false, true, true, false]) := by decide
theorem test_addc : obs (exec (.aluAddc .ar .ax0 .ay0) (aluState 0x7FFF 0x0000 true)) aluObs =
    some (0x8000, 0x0000, [false, true, true, false, false]) := by decide
theorem test_sub : obs (exec (.aluSub .ar .ax0 .ay0) (aluState 0x8000 0x0001 false)) aluObs =
    some (0x7FFF, 0x0000, [false, false, true, true, false]) := by decide
theorem test_subb : obs (exec (.aluSubb .ar .ax0 .ay0) (aluState 0x0000 0x0000 false)) aluObs =
    some (0xFFFF, 0x0000, [false, true, false, false, false]) := by decide
theorem test_rsub : obs (exec (.aluRsub .ar .ax0 .ay0) (aluState 0x0005 0x0003 false)) aluObs =
    some (0xFFFE, 0x0000, [false, true, false, false, false]) := by decide
theorem test_rsubb : obs (exec (.aluRsubb .ar .ax0 .ay0) (aluState 0x0003 0x0005 false)) aluObs =
    some (0x0001, 0x0000, [false, false, false, true, false]) := by decide
theorem test_negx : obs (exec (.aluNegx .ar .ax0) (aluState 0x8000 0x0000 false)) aluObs =
    some (0x8000, 0x0000, [false, true, true, false, false]) := by decide
theorem test_negy : obs (exec (.aluNegy .ar .ay0) (aluState 0x0000 0x0000 false)) aluObs =
    some (0x0000, 0x0000, [true, false, false, true, false]) := by decide
theorem test_incy : obs (exec (.aluIncy .ar .ay0) (aluState 0x0000 0xFFFF false)) aluObs =
    some (0x0000, 0x0000, [true, false, false, true, false]) := by decide
theorem test_decy : obs (exec (.aluDecy .ar .ay0) (aluState 0x0000 0x8000 false)) aluObs =
    some (0x7FFF, 0x0000, [false, false, true, true, false]) := by decide
theorem test_passx : obs (exec (.aluPassx .ar .ax0) (aluState 0x8001 0x0000 true)) aluObs =
    some (0x8001, 0x0000, [false, true, false, false, false]) := by decide
theorem test_passy : obs (exec (.aluPassy .af .ay0) (aluState 0x0000 0x7FFF true)) aluObs =
    some (0x0000, 0x7FFF, [false, false, false, false, false]) := by decide
theorem test_clear : obs (exec (.aluClear .ar) (aluState 0x1234 0x5678 true)) aluObs =
    some (0x0000, 0x0000, [true, false, false, false, false]) := by decide
theorem test_absx : obs (exec (.aluAbsx .ar .ax0) (aluState 0x8000 0x0000 true)) aluObs =
    some (0x8000, 0x0000, [false, true, true, false, true]) := by decide
theorem test_and : obs (exec (.aluAnd .ar .ax0 .ay0) (aluState 0xF0F0 0xFF00 true)) aluObs =
    some (0xF000, 0x0000, [false, true, false, false, false]) := by decide
theorem test_or : obs (exec (.aluOr .ar .ax0 .ay0) (aluState 0xF0F0 0x0F00 true)) aluObs =
    some (0xFFF0, 0x0000, [false, true, false, false, false]) := by decide
theorem test_xor : obs (exec (.aluXor .ar .ax0 .ay0) (aluState 0xAAAA 0x5555 false)) aluObs =
    some (0xFFFF, 0x0000, [false, true, false, false, false]) := by decide
theorem test_notx : obs (exec (.aluNotx .ar .ax0) (aluState 0x0000 0x0000 true)) aluObs =
    some (0xFFFF, 0x0000, [false, true, false, false, false]) := by decide
theorem test_noty : obs (exec (.aluNoty .ar .ay0) (aluState 0x0000 0x00FF false)) aluObs =
    some (0xFF00, 0x0000, [false, true, false, false, false]) := by decide
theorem test_add_saturates : obs (exec (.aluAdd .ar .ax0 .ay0) (satMode (aluState 0x7FFF 0x0001 false))) aluObs =
    some (0x7FFF, 0x0000, [false, false, true, false, false]) := by decide
theorem test_add_af_wraps_flags_saturate : obs (exec (.aluAdd .af .ax0 .ay0) (satMode (aluState 0x8000 0x8000 false))) aluObs =
    some (0x0000, 0x0000, [false, true, true, true, false]) := by decide

theorem test_divs :
    obs (exec (.divs .ay1 .ax0) (withBank fun b => { b with ay1 := 0x1234, ay0 := 0x8001, ax0 := 0xFFFF }))
      (fun t => (t.primary.af, t.primary.ay0, t.astat.AQ)) = some (0x2469, 0x0003, true) := by decide
theorem test_divq :
    obs (exec (.divq .ax0) (withBank fun b => { b with af := 0x0000, ay0 := 0x0003, ax0 := 0x4000 }))
      (fun t => (t.primary.af, t.primary.ay0, t.astat.AQ)) = some (0x8000, 0x0006, true) := by decide

theorem test_mul_ss : obs (exec (.macMulSs .mr .mx0 .my0) (macState 0x8000 0x8000 0x0000000000 false)) macObs =
    some (0x0080000000, 0x0000, true) := by decide
theorem test_mul_su : obs (exec (.macMulSu .mr .mx0 .my0) (macState 0xFFFF 0x0002 0x0000000000 true)) macObs =
    some (0xFFFFFFFFFE, 0x0000, false) := by decide
theorem test_mul_us : obs (exec (.macMulUs .mr .mx0 .my0) (macState 0xFFFF 0x0002 0x0000000000 true)) macObs =
    some (0x000001FFFE, 0x0000, false) := by decide
theorem test_mul_uu : obs (exec (.macMulUu .mr .mx0 .my0) (macState 0xFFFF 0xFFFF 0x0000000000 false)) macObs =
    some (0xFFFFFC0002, 0x0000, false) := by decide
theorem test_mul_uu_zero_extended :
    obs (exec (.macMulUu .mr .mx0 .my0)
      { macState 0xFFFF 0xFFFF 0 false with config := ⟨true, .zero⟩ }) macObs =
    some (0x01FFFC0002, 0x0000, true) := by decide
theorem test_mul_rnd : obs (exec (.macMulRnd .mf .mx0 .my0) (macState 0x5555 0x3333 0x1122334455 false)) macObs =
    some (0x1122334455, 0x2222, false) := by decide
theorem test_add_ss : obs (exec (.macAddSs .mf .mx0 .my0) (macState 0x7FFF 0x7FFF 0x007FFFFFFF false)) macObs =
    some (0x007FFFFFFF, 0xFFFE, true) := by decide
theorem test_add_su : obs (exec (.macAddSu .mr .mx0 .my0) (macState 0xFFFF 0xFFFF 0x0000010000 true)) macObs =
    some (0x0000000001, 0x0000, false) := by decide
theorem test_add_us : obs (exec (.macAddUs .mr .mx0 .my0) (macState 0xFFFF 0x0002 0x0000000000 true)) macObs =
    some (0x000001FFFE, 0x0000, false) := by decide
theorem test_add_uu : obs (exec (.macAddUu .mr .mx0 .my0) (macState 0x0001 0x0001 0xFFFFFFFFFF true)) macObs =
    some (0x0000000000, 0x0000, false) := by decide
theorem test_add_rnd : obs (exec (.macAddRnd .mr .mx0 .my0) (macState 0x0000 0x0000 0x007FFE8000 false)) macObs =
    some (0x007FFE0000, 0x0000, false) := by decide
theorem test_add_rnd_biased : obs (exec (.macAddRnd .mr .mx0 .my0) ((macState 0x0000 0x0000 0x007FFE8000 false).setBiasrnd true)) macObs =
    some (0x007FFF0000, 0x0000, false) := by decide
theorem test_sub_ss : obs (exec (.macSubSs .mr .mx0 .my0) (macState 0x0001 0x0001 0xFF80000000 true)) macObs =
    some (0xFF7FFFFFFF, 0x0000, true) := by decide
theorem test_sub_su : obs (exec (.macSubSu .mr .mx0 .my0) (macState 0xFFFF 0x0002 0x0000000000 true)) macObs =
    some (0x0000000002, 0x0000, false) := by decide
theorem test_sub_us : obs (exec (.macSubUs .mr .mx0 .my0) (macState 0xFFFF 0x0002 0x0000000000 true)) macObs =
    some (0xFFFFFE0002, 0x0000, false) := by decide
theorem test_sub_uu : obs (exec (.macSubUu .mr .mx0 .my0) (macState 0xFFFF 0x0001 0x0000000000 true)) macObs =
    some (0xFFFFFF0001, 0x0000, false) := by decide
theorem test_sub_rnd : obs (exec (.macSubRnd .mr .mx0 .my0) (macState 0x4000 0x0001 0x0000010000 false)) macObs =
    some (0x0000000000, 0x0000, false) := by decide
theorem test_mac_clear :
    obs (exec (.macClear .mr)
      { macState 0 0 0x7FFFFFFFFF false with astat := { Astat.reset with MV := true } }) macObs =
    some (0x0000000000, 0x0000, false) := by decide
theorem test_sat_mr_positive :
    obs (exec .satMr { macState 0 0 0x7FFFFFFFFF false with astat := { Astat.reset with MV := true } }) macObs =
    some (0x007FFFFFFF, 0x0000, true) := by decide
theorem test_sat_mr_negative :
    obs (exec .satMr { macState 0 0 0x8000000000 false with astat := { Astat.reset with MV := true } }) macObs =
    some (0xFF80000000, 0x0000, true) := by decide

theorem test_lshift_hi : obs (exec (.lshiftHi .si) (shState 0xB6A3 (-31) 0x0 false false false)) srObs =
    some 0x00000001 := by decide
theorem test_lshift_hi_or : obs (exec (.lshiftHiOr .si) (shState 0xB6A3 (-5) 0xFF false false false)) srObs =
    some 0x05B518FF := by decide
theorem test_lshift_lo : obs (exec (.lshiftLo .si) (shState 0xB6A3 (5) 0x0 false false false)) srObs =
    some 0x0016D460 := by decide
theorem test_lshift_lo_or : obs (exec (.lshiftLoOr .si) (shState 0x765D (-3) 0xF6D46000 false false false)) srObs =
    some 0xF6D46ECB := by decide
theorem test_ashift_hi : obs (exec (.ashiftHi .si) (shState 0xB6A3 (-3) 0x12345678 false false false)) srObs =
    some 0xF6D46000 := by decide
theorem test_ashift_hi_or : obs (exec (.ashiftHiOr .si) (shState 0xB6A3 (-3) 0xECB false false false)) srObs =
    some 0xF6D46ECB := by decide
theorem test_ashift_lo : obs (exec (.ashiftLo .si) (shState 0xB6A3 (-128) 0x0 false false false)) srObs =
    some 0xFFFFFFFF := by decide
theorem test_ashift_lo_or : obs (exec (.ashiftLoOr .si) (shState 0xFF80 (-4) 0x0 false false false)) srObs =
    some 0xFFFFFFF8 := by decide
theorem test_norm_hi : obs (exec (.normHi .si) (shState 0x7A32 (1) 0x0 true false false)) srObs =
    some 0xBD190000 := by decide
theorem test_norm_hi_or : obs (exec (.normHiOr .si) (shState 0xF6D4 (-3) 0x3 false false false)) srObs =
    some 0xB6A00003 := by decide
theorem test_norm_lo : obs (exec (.normLo .si) (shState 0x7A32 (1) 0x0 true false false)) srObs =
    some 0x00003D19 := by decide
theorem test_norm_lo_or : obs (exec (.normLoOr .si) (shState 0x6ECB (-3) 0xB6A00000 false false false)) srObs =
    some 0xB6A37658 := by decide
theorem test_lshift_hi_imm : obs (exec (.lshiftHiImm .si 0xFB) (shState 0xB6A3 (9) 0x0 false false false)) srObs =
    some 0x05B51800 := by decide
theorem test_lshift_hi_or_imm : obs (exec (.lshiftHiOrImm .si 0xFB) (shState 0xB6A3 (9) 0xFF false false false)) srObs =
    some 0x05B518FF := by decide
theorem test_lshift_lo_imm : obs (exec (.lshiftLoImm .si 0x05) (shState 0xB6A3 (9) 0x0 false false false)) srObs =
    some 0x0016D460 := by decide
theorem test_lshift_lo_or_imm : obs (exec (.lshiftLoOrImm .si 0x00) (shState 0x00FF (9) 0x12340F00 false false false)) srObs =
    some 0x12340FFF := by decide
theorem test_ashift_hi_imm : obs (exec (.ashiftHiImm .si 0xFB) (shState 0xB6A3 (9) 0x0 false false false)) srObs =
    some 0xFDB51800 := by decide
theorem test_ashift_hi_or_imm : obs (exec (.ashiftHiOrImm .si 0xFD) (shState 0xB6A3 (9) 0xECB false false false)) srObs =
    some 0xF6D46ECB := by decide
theorem test_ashift_lo_imm : obs (exec (.ashiftLoImm .si 0x11) (shState 0xB6A3 (9) 0x0 false false false)) srObs =
    some 0x6D460000 := by decide
theorem test_ashift_lo_or_imm : obs (exec (.ashiftLoOrImm .si 0x08) (shState 0xFFFF (9) 0x0 false false false)) srObs =
    some 0xFFFFFF00 := by decide
theorem test_exp_hi : obs (exec (.expHi .si) (shState 0xF6D4 (5) 0 false false false)) expObs =
    some (0xFD, 0, true) := by decide
theorem test_exp_hix_overflow : obs (exec (.expHix .si) (shState 0xFA32 (5) 0 false true false)) expObs =
    some (0x01, 0, false) := by decide
theorem test_exp_hix_no_overflow : obs (exec (.expHix .si) (shState 0xE35B (5) 0 false false false)) expObs =
    some (0xFE, 0, true) := by decide
theorem test_exp_lo : obs (exec (.expLo .si) (shState 0xF6D4 (-15) 0 false false true)) expObs =
    some (0xED, 0, true) := by decide
theorem test_exp_lo_not_loaded : obs (exec (.expLo .si) (shState 0xFFFF (-14) 0 false false true)) expObs =
    some (0xF2, 0, true) := by decide
theorem test_expadj :
    obs (exec (.expadj .si) (withBank fun b => { b with si := 0xF5B1, sb := 0b10000, se := 11 })) expObs =
    some (0x0B, 0b11101, false) := by decide
theorem test_norm_refused_at_minus_128 :
    exec (.normHi .si) (shState 0x1234 (-128) 0 false false false) = .refused .normControlCode := rfl

theorem test_loadimm_mr1 :
    obs (exec (.loadimmDreg .mr1 0x8000) State.reset) (fun t => (t.primary.mr2, t.primary.mr1, t.primary.mr0)) =
    some (0xFF, 0x8000, 0x0000) := by decide
theorem test_loadimm_se :
    obs (exec (.loadimmDreg .se 0x0180) State.reset) (fun t => (t.primary.se, t.dmdRead (.data .se))) =
    some (0x80, some 0xFF80) := by decide
theorem test_loadimm_astat :
    obs (exec (.loadimmSreg .astat 0xFFA5) State.reset) (fun t => (t.astat, t.dmdRead (.status .astat))) =
    some (⟨true, false, true, false, false, true, false, true⟩, some 0x00A5) := by decide
theorem test_loadimm_mstat :
    obs (exec (.loadimmSreg .mstat 0xFFFF) State.reset) (fun t => t.mstat) =
    some ⟨true, true, true, true⟩ := by decide
theorem test_move_se_sb :
    obs (exec (.move (.data .se) (.status .sb)) (withBank fun b => { b with sb := 0b11101 }))
      (fun t => t.primary.se) = some 0xFD := by decide
theorem test_move_takes_shifter_result :
    obs (exec (.move (.data .sr0) (.data .ar)) (withBank fun b => { b with ar := 0x1234 })) srObs =
    some 0x00001234 := by decide
theorem test_move_mr1_ar :
    obs (exec (.move (.data .mr1) (.data .ar)) (withBank fun b => { b with ar := 0x9000 }))
      (fun t => (t.primary.mr2, t.primary.mr1)) = some (0xFF, 0x9000) := by decide

/-! ## A multifunction cycle (R47): operands and reads of the start, writes at the end -/

theorem test_cycle_reads_then_writes :
    (match cycle (.aluAdd .ar .ax0 .ay0) [.dmdLoad (.data .ax0) 0x5555, .pmdLoad .ay0 0x6666, .dmdRead (.data .ar)]
        (withBank fun b => { b with ax0 := 1, ay0 := 2, ar := 0x7777 }) with
      | .next (t, ws) => some (t.primary.ar, t.primary.ax0, t.primary.ay0, ws)
      | .fault _ => none
      | .refused _ => none) = some (0x0003, 0x5555, 0x6666, [0x7777]) := by decide
theorem test_cycle_exchange_unit :
    (match cycle .satMr [.exchangeRead (.data .ax1), .exchangeLoad (.status .sb) 0x0010, .exchangeRead (.status .sb)]
        (withBank fun b => { b with ax1 := 0x4321, sb := 0b11101 }) with
      | .next (t, ws) => some (t.primary.sb, ws)
      | .fault _ => none
      | .refused _ => none) = some (0b10000, [0x4321, 0xFFFD]) := by decide
theorem test_cycle_without_access :
    cycle .satMr [.exchangeRead .af] State.reset = .refused (.noBusAccess .af) := rfl
theorem test_cycle_two_writers :
    cycle (.aluAdd .ar .ax0 .ay0) [.dmdLoad (.data .ar) 0] State.reset = .refused .twoWriters := rfl

/-! ## The step -/

/-- The secondary bank selected, its AX0 loaded. -/
def secondaryState : State :=
  { State.reset with
    mstat := ⟨true, false, false, false⟩
    secondary := { Bank.reset with ax0 := 0x2222 } }

/-- Program 8, word 10 (`AR = PASS AX0;`), as the first instruction after reset, in the secondary bank. -/
theorem test_step_secondary_bank :
    obs (step (secondaryState.withFetchWord 24 0x22780F))
      (fun t => (t.primary.ar, t.secondary.ar, t.idx)) = some (0x0000, 0x2222, 1) := by decide
theorem test_reset_has_ended : step State.reset = .fault .endOfProgram := rfl
theorem test_step_refuses_zero_word :
    step (State.reset.withFetchWord 24 0) = .refused (.undecodable .notInSource) := rfl

/-! ## States and operands that meet the hypotheses of the obligations -/

/-- A state whose one word, `AR = AX0 + AY0;`, overflows, with both latches of the AV kind set. -/
def addState : State :=
  { aluState 0x7FFF 0x0001 false with
    prog := [0x22600F]
    mstat := { Mstat.reset with avLatch := true }
    astat := { Astat.reset with AV := true } }

theorem witness_DecodeOfEncode :
    [Instr.loadimmSreg .sb 0x1FFF, .loadimmSreg .sb 0xE000, .divs .af .sr1,
      .move (.status .mstat) (.status .sb), .ashiftLoOrImm .sr1 0xFF].map Instr.wellFormed =
    [true, true, true, true, true] := by decide
theorem witness_EncodeOfDecode : decode 0x22600F = .ok (.aluAdd .ar .ax0 .ay0) := rfl
theorem witness_ConditionalFormsRefused :
    ((0x22600E : ProgWord).extractLsb' 19 5 = 0b00100 ∧ (0x22600E : ProgWord).extractLsb' 0 4 ≠ 0b1111 ∧
      (0x22600E : ProgWord).extractLsb' 4 4 = 0) ∧
    ((0x0E7F00 : ProgWord).extractLsb' 16 8 = 0x0E ∧ (0x0E7F00 : ProgWord).extractLsb' 0 4 ≠ 0b1111 ∧
      (0x0E7F00 : ProgWord).extractLsb' 4 4 = 0 ∧ (0x0E7F00 : ProgWord).extractLsb' 15 1 = 0) ∧
    ((0x22601E : ProgWord).extractLsb' 19 5 = 0b00100 ∧ (0x22601E : ProgWord).extractLsb' 0 4 ≠ 0b1111 ∧
      (0x22601E : ProgWord).extractLsb' 4 4 ≠ 0) ∧
    ((0x0E8F00 : ProgWord).extractLsb' 16 8 = 0x0E ∧ (0x0E8F00 : ProgWord).extractLsb' 0 4 ≠ 0b1111 ∧
      (0x0E8F00 : ProgWord).extractLsb' 4 4 = 0 ∧ (0x0E8F00 : ProgWord).extractLsb' 15 1 ≠ 0) := by
  decide
theorem witness_StepRunsDecoded :
    addState.prog[addState.idx]? = some 0x22600F ∧ decode 0x22600F = .ok (.aluAdd .ar .ax0 .ay0) :=
  ⟨rfl, rfl⟩
theorem witness_RunEndsAtLength :
    State.reset.prog.length ≤ State.reset.idx ∧
    { addState with idx := 1 }.prog.length ≤ { addState with idx := 1 }.idx := by decide
theorem witness_StepRefusesUndecodable :
    { addState with prog := [0] }.prog[addState.idx]? = some 0 ∧ decode 0 = .error .notInSource :=
  ⟨rfl, rfl⟩
theorem witness_StepKeepsRun :
    addState.InRun [0x22600F] Config.default false ∧ ∃ t, step addState = .next t :=
  ⟨⟨rfl, rfl, rfl, by decide⟩, _, rfl⟩
theorem witness_RunAdvancesByOne :
    addState.InRun [0x22600F] Config.default false ∧
    (∃ t, Sys2Proof.core.run 0 addState = .next t) ∧ ∃ t, Sys2Proof.core.run 1 addState = .next t :=
  ⟨⟨rfl, rfl, rfl, by decide⟩, ⟨_, rfl⟩, _, rfl⟩
theorem witness_EveryTermExecutes :
    (Instr.normHi .si).isTerm = true ∧ (shState 1 (-127) 0 false false false).bank.se ≠ 0x80 ∧
    (shState 1 (-128) 0 false false false).bank.se = 0x80 ∧ Instr.normHi .si = normTerm false .hi .si :=
  by decide
theorem witness_UnselectedBankKept : ∃ t, exec (.aluAdd .ar .ax0 .ay0) addState = .next t := ⟨_, rfl⟩
theorem witness_UnselectedBankUnobserved :
    addState.mstat.secReg = false ∧
    { addState with mstat := ⟨true, false, false, false⟩ }.mstat.secReg = true := by decide
theorem witness_FrameOfEveryInstruction :
    (∃ t, exec (.expadj .si) addState = .next t) ∧ Loc.data .ar ∉ instrWrites (.expadj .si) ∧
    Loc.reg .af ∉ instrWrites (.expadj .si) ∧ Loc.reg .mf ∉ instrWrites (.expadj .si) ∧
    Loc.flag .AS ∉ instrWrites (.expadj .si) ∧
    Loc.reg (.status .mstat) ∉ instrWrites (.expadj .si) ∧
    (∃ t, exec (.aluAdd .ar .ax0 .ay0) addState = .next t) ∧
    Loc.reg (.status .sb) ∉ instrWrites (.aluAdd .ar .ax0 .ay0) :=
  ⟨⟨_, rfl⟩, by decide, by decide, by decide, by decide, by decide, ⟨_, rfl⟩, by decide⟩
theorem witness_FlagWriters :
    obs (exec (.aluAbsx .ar .ax0) (aluState 0xFFFF 0 false)) (fun t => t.astat.AS) = some true ∧
    obs (exec (.divs .ay1 .ax0) (aluState 0xFFFF 0 false)) (fun t => t.astat.AQ) = some true ∧
    obs (exec (.macMulSs .mr .mx0 .my0) (macState 0x8000 0x8000 0 false)) (fun t => t.astat.MV) = some true ∧
    obs (exec (.expHi .si) (shState 0xFFFF 0 0 false false false)) (fun t => t.astat.SS) = some true ∧
    obs (exec (.aluClear .ar) State.reset) (fun t => t.astat.AZ) = some true := by decide
theorem witness_AvLatchSticks :
    addState.mstat.avLatch = true ∧ addState.astat.AV = true ∧
    ∃ t, exec (.aluPassx .ar .ax0) addState = .next t := ⟨rfl, rfl, _, rfl⟩
/-- The second half of a multiword addition: another state, with the carry the first half left. -/
def carryState : State := aluState 0x0001 0x0001 true

theorem witness_MultiprecisionExact :
    (aluState 0xFFFF 0x0001 false).mstat.arSat = false ∧ (satMode carryState).mstat.arSat = true ∧
    AluDst.af = .af ∧ carryState.mstat.arSat = false ∧
    obs (exec (.aluAdd .ar .ax0 .ay0) (aluState 0xFFFF 0x0001 false)) (fun t => t.astat.AC) =
      some carryState.astat.AC ∧
    obs (exec (.aluSub .af .ax0 .ay0) (aluState 0xFFFF 0x0001 false)) (fun t => t.astat.AC) =
      some carryState.astat.AC ∧
    carryState.astat.AC = decide (2 ^ 16 ≤ (0xFFFF : Word).toNat + (0x0001 : Word).toNat) ∧
    carryState.astat.AC = decide ((0x0001 : Word).toNat ≤ (0x0001 : Word).toNat) := by decide
theorem witness_DivsEffect : AluY.af ≠ .ay0 ∧ AluY.ay1 ≠ .ay0 ∧ AluY.ay0 = .ay0 := by decide

/-- The largest divisor and the largest upper half below it. -/
def udivState : State := withBank fun b => { b with ax0 := 0x7FFF, af := 0x7FFE, ay0 := 0xFFFF }

theorem witness_UnsignedDivide :
    udivState.astat.AQ = false ∧ (udivState.bank.aluX .ax0).toNat < 0x8000 ∧
    udivState.bank.af.toNat < (udivState.bank.aluX .ax0).toNat := by decide

/-- A doubled dividend in AY1 and AY0, a divisor in AX0. -/
def sdivState (n : Long) (d : Word) : State :=
  withBank fun b => { b with ay1 := n.extractLsb' 16 16, ay0 := n.extractLsb' 0 16, ax0 := d }

/-- The quotient of the table for that state. -/
def sdivQuotient (n : Long) (d : Word) : Int :=
  quotientOfTable (((sdivState n d).bank.aluY .ay1 ++ (sdivState n d).bank.ay0 : Long).toInt / 2)
    ((sdivState n d).bank.aluX .ax0).toInt

/-- Quotients at both ends of the range, and −100 / 7 and −12345 / −5 of 95_test_vectors.md section 3. -/
theorem witness_SignedDivide :
    sdivQuotient 0x0000FFFE 0x0001 = 32767 ∧ sdivQuotient 0xFFFF0000 0x0001 = -32768 ∧
    sdivQuotient 0xFFFFFF38 0x0007 = -15 ∧ sdivQuotient 0xFFFF9F8E 0xFFFB = 2468 ∧
    AluY.ay1 ≠ .ay0 ∧ ((sdivState 0x0000FFFE 0x0001).bank.aluX .ax0).toInt ≠ 0 := by decide
theorem witness_RoundingToNearest : MacFmt.uu ≠ .rnd := by decide
theorem witness_MacProducts : MacFmt.ss ≠ .rnd ∧ MacFmt.uu ≠ .rnd := by decide
theorem witness_Normalizes :
    (shState 1 (-127) 0 false false false).bank.se.toInt ≠ -128 ∧
    (shState 1 127 0 false false false).bank.se.toInt ≠ -128 ∧
    (shState 1 (-128) 0 false false false).bank.se.toInt = -128 := by decide
theorem witness_ExpHixEffect :
    (shState 1 0 0 false false false).astat.AV = false ∧
    (shState 1 0 0 false true false).astat.AV = true := by decide
theorem witness_ExpLoEffect :
    (shState 1 (-15) 0 false false false).bank.se.toInt = -15 ∧
    (shState 1 (-14) 0 false false false).bank.se.toInt ≠ -15 := by decide
theorem witness_NormalizeRemovesSignBits :
    (∃ t, exec (.expHi .si) (shState 1 0 0 false false false) = .next t) ∧
    (shState 1 0 0 false false false).bank.shX .si ≠ 0 := ⟨⟨_, rfl⟩, by decide⟩
theorem witness_BlockExponentIsMax :
    [((.si : ShX), (0xF5B1 : Word)), (.mr2, 0x0176)] ≠ [] ∧
    (∀ k, k < 4 → (shLoaded .si 0xF5B1).getLsbD (15 - k) = true) ∧
    (shLoaded .si 0xF5B1).getLsbD (15 - 4) = false := by decide

/-- A state with SR and SE for the second half of a double-precision shift. -/
def halfState (sr : Long) : State := shState 0x765D (-3) sr false false false

theorem witness_DoublePrecisionShift :
    obs (exec (.ashiftHi .si) (shState 0xB6A3 (-3) 0 false false false)) (fun t => (t.bank.sr, t.bank.se)) =
      some ((halfState 0xF6D46000).bank.sr, (halfState 0xF6D46000).bank.se) ∧
    obs (exec (.lshiftLo .si) (shState 0x765D (-3) 0 false false false)) (fun t => (t.bank.sr, t.bank.se)) =
      some ((halfState 0x00000ECB).bank.sr, (halfState 0x00000ECB).bank.se) ∧
    obs (exec (.lshiftHi .si) (shState 0xB6A3 (-3) 0 false false false)) (fun t => (t.bank.sr, t.bank.se)) =
      some ((halfState 0x16D46000).bank.sr, (halfState 0x16D46000).bank.se) := by decide
theorem witness_LoadDataRegister :
    DReg.mr2 ≠ .mr0 ∧ ¬(DReg.mr0 = .mr1 ∧ DReg.mr2 = .mr2) := by decide
theorem witness_MoveIsReadThenLoad : (Reg.status .sb).readable = true ∧ (Reg.data .se).readable = true := by
  decide
theorem witness_MoveWithoutAccessRefused :
    (Reg.status .mstat).readable = false ∧ Reg.af.readable = false ∧
    (Reg.data .ar).readable = true ∧ Reg.mf.loadable = false := by decide
theorem witness_MoveToSelf :
    (Reg.data .mr2).readable = true ∧ Reg.data .mr2 ≠ .data .mr1 ∧
    (Reg.status .astat).readable = true ∧ Reg.status .astat ≠ .data .mr1 := by decide
theorem witness_TwoWritersRefused :
    ¬(cycleWrites (.macMulSs .mr .mx0 .my0) [.dmdLoad (.data .mr1) 0]).Nodup := by decide
/-- Transfers of every kind, the status group among them. -/
def someTransfers : List Transfer :=
  [.dmdLoad (.data .mx0) 1, .pmdLoad .my0 2, .dmdRead (.status .sb), .exchangeLoad (.status .mstat) 0xFFFF,
    .dmdLoad (.status .sb) 3, .exchangeRead (.status .astat)]

theorem witness_CycleReadsThenWrites :
    (∃ t, exec (.macAddSs .mr .mx0 .my0) addState = .next t) ∧
    (cycleWrites (.macAddSs .mr .mx0 .my0) someTransfers).Nodup ∧
    (∀ x ∈ someTransfers, x.accessible = true) ∧
    (∃ t, exec (.expadj .si) addState = .next t) ∧
    (cycleWrites (.expadj .si) [.dmdLoad (.status .astat) 5, .dmdRead .mf]).Nodup ∧
    ∃ x ∈ [Transfer.dmdLoad (.status .astat) 5, .dmdRead .mf], x.accessible = false :=
  ⟨⟨_, rfl⟩, by decide, by decide, ⟨_, rfl⟩, by decide, by decide⟩
theorem witness_PmdWriteIsDmdLoad :
    (∃ t, exec (.aluAdd .ar .ax0 .ay0) addState = .next t) ∧
    Loc.data (pmdTarget .ay0) ∉ instrWrites (.aluAdd .ar .ax0 .ay0) := ⟨⟨_, rfl⟩, by decide⟩

end Sys2Proof.Tests
end

section
/-! The instructions by the terms of R56: every instruction is one of them, and each term has one equation that
says which shared step it runs and one that says what it writes. -/

namespace Sys2Proof.Machine

/-! ## Every instruction is a term -/

/-- A case split of the instructions by the terms of R56, one case per function of the units instead of one
per row of the table. -/
theorem instr_term_cases {P : Instr → Prop}
    (alu : ∀ fn d x y, P (aluTerm fn d x y))
    (divs : ∀ y x, P (.divs y x))
    (divq : ∀ x, P (.divq x))
    (mac : ∀ fn fmt d x y, P (macTerm fn fmt d x y))
    (macClear : ∀ d, P (.macClear d))
    (satMr : P .satMr)
    (shift : ∀ kind orSr hl x, P (shiftTerm kind orSr hl x))
    (shiftImm : ∀ kind orSr hl x e, P (shiftImmTerm kind orSr hl x e))
    (norm : ∀ orSr hl x, P (normTerm orSr hl x))
    (exp : ∀ mode x, P (expTerm mode x))
    (expadj : ∀ x, P (.expadj x))
    (loadData : ∀ r v, P (.loadimmDreg r v))
    (loadStatus : ∀ r v, P (.loadimmSreg r v))
    (move : ∀ dst src, P (.move dst src)) : ∀ i, P i
  | .aluPassx d x => alu .passx d x .ay0
  | .aluNegx d x => alu .negx d x .ay0
  | .aluClear d => alu .clear d .ax0 .ay0
  | .macClear d => macClear d
  | .aluAdd d x y => alu .add d x y
  | .aluAddc d x y => alu .addc d x y
  | .aluSub d x y => alu .sub d x y
  | .aluSubb d x y => alu .subb d x y
  | .aluRsub d x y => alu .rsub d x y
  | .aluRsubb d x y => alu .rsubb d x y
  | .aluNegy d y => alu .negy d .ax0 y
  | .aluIncy d y => alu .incy d .ax0 y
  | .aluDecy d y => alu .decy d .ax0 y
  | .aluPassy d y => alu .passy d .ax0 y
  | .aluAbsx d x => alu .absx d x .ay0
  | .aluAnd d x y => alu .and d x y
  | .aluOr d x y => alu .or d x y
  | .aluXor d x y => alu .xor d x y
  | .aluNotx d x => alu .notx d x .ay0
  | .aluNoty d y => alu .noty d .ax0 y
  | .divs y x => divs y x
  | .divq x => divq x
  | .macMulSs d x y => mac .mul .ss d x y
  | .macMulSu d x y => mac .mul .su d x y
  | .macMulUs d x y => mac .mul .us d x y
  | .macMulUu d x y => mac .mul .uu d x y
  | .macMulRnd d x y => mac .mul .rnd d x y
  | .macAddSs d x y => mac .add .ss d x y
  | .macAddSu d x y => mac .add .su d x y
  | .macAddUs d x y => mac .add .us d x y
  | .macAddUu d x y => mac .add .uu d x y
  | .macAddRnd d x y => mac .add .rnd d x y
  | .macSubSs d x y => mac .sub .ss d x y
  | .macSubSu d x y => mac .sub .su d x y
  | .macSubUs d x y => mac .sub .us d x y
  | .macSubUu d x y => mac .sub .uu d x y
  | .macSubRnd d x y => mac .sub .rnd d x y
  | .satMr => satMr
  | .lshiftHi x => shift .lshift false .hi x
  | .lshiftHiOr x => shift .lshift true .hi x
  | .lshiftLo x => shift .lshift false .lo x
  | .lshiftLoOr x => shift .lshift true .lo x
  | .ashiftHi x => shift .ashift false .hi x
  | .ashiftHiOr x => shift .ashift true .hi x
  | .ashiftLo x => shift .ashift false .lo x
  | .ashiftLoOr x => shift .ashift true .lo x
  | .normHi x => norm false .hi x
  | .normHiOr x => norm true .hi x
  | .normLo x => norm false .lo x
  | .normLoOr x => norm true .lo x
  | .expHi x => exp .hi x
  | .expHix x => exp .hix x
  | .expLo x => exp .lo x
  | .expadj x => expadj x
  | .lshiftHiImm x e => shiftImm .lshift false .hi x e
  | .lshiftHiOrImm x e => shiftImm .lshift true .hi x e
  | .lshiftLoImm x e => shiftImm .lshift false .lo x e
  | .lshiftLoOrImm x e => shiftImm .lshift true .lo x e
  | .ashiftHiImm x e => shiftImm .ashift false .hi x e
  | .ashiftHiOrImm x e => shiftImm .ashift true .hi x e
  | .ashiftLoImm x e => shiftImm .ashift false .lo x e
  | .ashiftLoOrImm x e => shiftImm .ashift true .lo x e
  | .loadimmDreg r v => loadData r v
  | .loadimmSreg r v => loadStatus r v
  | .move dst src => move dst src

/-! ## What each term runs -/

/-- The triple `(R, c, v)` of an ALU function from its operands and AC (R88 to R106). -/
def aluFnOut (fn : AluFn) (x y : Word) (ac : Bool) : AluOut :=
  match fn with
  | .add => add16 x y false
  | .addc => add16 x y ac
  | .sub => add16 x (~~~y) true
  | .subb => add16 x (~~~y) ac
  | .rsub => add16 y (~~~x) true
  | .rsubb => add16 y (~~~x) ac
  | .negx => add16 0 (~~~x) true
  | .negy => add16 0 (~~~y) true
  | .incy => add16 y 0 true
  | .decy => add16 y 0xFFFF false
  | .passx => noCarry x
  | .passy => noCarry y
  | .clear => noCarry 0
  | .absx => absOut x
  | .and => noCarry (x &&& y)
  | .or => noCarry (x ||| y)
  | .xor => noCarry (x ^^^ y)
  | .notx => noCarry (~~~x)
  | .noty => noCarry (~~~y)

/-- What an ALU function writes to AS: ABS the sign of its operand, no other function anything (R101). -/
def aluFnAs (fn : AluFn) (x : Word) : Option Bool := if fn = .absx then some x.msb else none

theorem exec_aluTerm (fn : AluFn) (d : AluDst) (x : AluX) (y : AluY) (s : State) :
    exec (aluTerm fn d x y) s =
      .next (s.aluStep d (aluFnOut fn (s.bank.aluX x) (s.bank.aluY y) s.astat.AC)
        (aluFnAs fn (s.bank.aluX x))) := by
  cases fn <;> rfl

theorem exec_divs (y : AluY) (x : AluX) (s : State) : exec (.divs y x) s = execDivs y x s := rfl

theorem exec_divq (x : AluX) (s : State) :
    exec (.divq x) s = .next (s.divStep (divqOut s.astat.AQ (s.bank.aluX x) s.bank.af)) := rfl

theorem exec_macTerm (fn : MacFn) (fmt : MacFmt) (d : MacDst) (x : MacX) (y : MacY) (s : State) :
    exec (macTerm fn fmt d x y) s = .next (s.macWrite d (s.macResult fn fmt x y)) := by
  cases fn <;> cases fmt <;> rfl

theorem exec_macClear (d : MacDst) (s : State) : exec (.macClear d) s = .next (s.macWrite d 0) := rfl

theorem exec_satMr (s : State) :
    exec .satMr s = .next (s.setBank (s.bank.setMr (saturateMr s.astat.MV s.bank.mr))).advance := rfl

theorem exec_shiftTerm (kind : ShiftKind) (orSr : Bool) (hl : HiLo) (x : ShX) (s : State) :
    exec (shiftTerm kind orSr hl x) s = .next (s.shiftStep kind orSr hl x s.bank.se.toInt) := by
  cases kind <;> cases hl <;> cases orSr <;> rfl

theorem exec_shiftImmTerm (kind : ShiftKind) (orSr : Bool) (hl : HiLo) (x : ShX) (e : BitVec 8)
    (s : State) :
    exec (shiftImmTerm kind orSr hl x e) s = .next (s.shiftStep kind orSr hl x e.toInt) := by
  cases kind <;> cases hl <;> cases orSr <;> rfl

theorem exec_normTerm (orSr : Bool) (hl : HiLo) (x : ShX) (s : State) :
    exec (normTerm orSr hl x) s = s.normStep orSr hl x := by
  cases hl <;> cases orSr <;> rfl

theorem exec_expHi (x : ShX) (s : State) :
    exec (.expHi x) s = .next (s.expWrite (expHiCode (s.bank.shX x)) (s.bank.shX x).msb) := rfl

theorem exec_expHix (x : ShX) (s : State) :
    exec (.expHix x) s =
      .next (s.expWrite (expHixCode (s.bank.shX x) s.astat.AV).1 (expHixCode (s.bank.shX x) s.astat.AV).2) :=
  rfl

/-- SE after EXP in the LO state, from SE and the code detected (R194). -/
def seAfterExpLo (e : Int) (se : BitVec 8) : BitVec 8 := if se.toInt = -15 then BitVec.ofInt 8 e else se

theorem exec_expLo (x : ShX) (s : State) :
    exec (.expLo x) s =
      .next (s.setBank { s.bank with
        se := seAfterExpLo (expLoCode (s.bank.shX x) s.astat.SS) s.bank.se }).advance := rfl

theorem exec_expadj (x : ShX) (s : State) :
    exec (.expadj x) s =
      .next (s.setBank { s.bank with sb := sbAfter (expHiCode (s.bank.shX x)) s.bank.sb }).advance := rfl

theorem exec_loadimmDreg (r : DReg) (v : Word) (s : State) :
    exec (.loadimmDreg r v) s = .next (s.loadData s.mstat.secReg r v).advance := rfl

theorem exec_loadimmSreg (r : SReg) (v : Word) (s : State) :
    exec (.loadimmSreg r v) s = .next (s.loadStatus s.mstat.secReg r v).advance := rfl

theorem exec_move (dst src : Reg) (s : State) : exec (.move dst src) s = execMove dst src s := rfl

/-! ## What each term writes -/

/-- The place behind what an ALU function writes to AS. -/
def asWrites : Option Bool → List Loc
  | none => []
  | some _ => [.flag .AS]

theorem instrWrites_aluTerm (fn : AluFn) (d : AluDst) (x : AluX) (y : AluY) (w : Word) :
    instrWrites (aluTerm fn d x y) = aluWrites d ++ asWrites (aluFnAs fn w) := by
  cases fn <;> cases d <;> rfl

theorem instrWrites_macTerm (fn : MacFn) (fmt : MacFmt) (d : MacDst) (x : MacX) (y : MacY) :
    instrWrites (macTerm fn fmt d x y) = macWrites d := by
  cases fn <;> cases fmt <;> rfl

theorem instrWrites_shiftTerm (kind : ShiftKind) (orSr : Bool) (hl : HiLo) (x : ShX) :
    instrWrites (shiftTerm kind orSr hl x) = srWrites := by
  cases kind <;> cases hl <;> cases orSr <;> rfl

theorem instrWrites_shiftImmTerm (kind : ShiftKind) (orSr : Bool) (hl : HiLo) (x : ShX) (e : BitVec 8) :
    instrWrites (shiftImmTerm kind orSr hl x e) = srWrites := by
  cases kind <;> cases hl <;> cases orSr <;> rfl

theorem instrWrites_normTerm (orSr : Bool) (hl : HiLo) (x : ShX) :
    instrWrites (normTerm orSr hl x) = srWrites := by
  cases hl <;> cases orSr <;> rfl

end Sys2Proof.Machine
end

section
/-! What an instruction can write: each shared step replaces the selected bank, ASTAT and MSTAT only at the
places its rule names. -/

namespace Sys2Proof.Machine

/-! ## Agreement outside a list of places -/

/-- Bank `b'` reads as `b` at every register that is not among `ws`. -/
structure Bank.AgreesOutside (ws : List Loc) (b b' : Bank) : Prop where
  read_eq : ∀ r, Loc.data r ∉ ws → b'.read r = b.read r
  af_eq : Loc.reg .af ∉ ws → b'.af = b.af
  mf_eq : Loc.reg .mf ∉ ws → b'.mf = b.mf
  sb_eq : Loc.reg (.status .sb) ∉ ws → b'.sb = b.sb

/-- ASTAT `a'` has the flags of `a` that are not among `ws`. -/
def Astat.AgreesOutside (ws : List Loc) (a a' : Astat) : Prop :=
  ∀ f, Loc.flag f ∉ ws → a'.flag f = a.flag f

/-- `t` is `s` one position on, with nothing but the places `ws` of the selected bank, ASTAT and MSTAT
changed. -/
def State.StepWrites (ws : List Loc) (s t : State) : Prop :=
  ∃ b a m, t = { s.setBank b with astat := a, mstat := m, idx := s.idx + 1 } ∧
    s.bank.AgreesOutside ws b ∧ s.astat.AgreesOutside ws a ∧ (Loc.reg (.status .mstat) ∉ ws → m = s.mstat)

theorem Bank.agreesOutside_refl (ws : List Loc) (b : Bank) : b.AgreesOutside ws b :=
  ⟨fun _ _ => rfl, fun _ => rfl, fun _ => rfl, fun _ => rfl⟩

theorem Astat.agreesOutside_refl (ws : List Loc) (a : Astat) : a.AgreesOutside ws a := fun _ _ => rfl

/-! ## Writes to the selected bank -/

theorem Bank.setAlu_agreesOutside (d : AluDst) (sat : Bool) (o : AluOut) (ws : List Loc) (b : Bank) :
    b.AgreesOutside (aluWrites d ++ ws) (b.setAlu d sat o) := by
  cases d with
  | ar =>
    refine ⟨fun r hr => ?_, fun _ => rfl, fun _ => rfl, fun _ => rfl⟩
    cases r <;> simp [aluWrites, Bank.setAlu, Bank.read] at hr ⊢
  | af => exact ⟨fun r _ => by cases r <;> rfl, fun h => by simp [aluWrites] at h, fun _ => rfl, fun _ => rfl⟩

theorem Bank.divide_agreesOutside (af ay0 : Word) (b : Bank) :
    b.AgreesOutside divWrites { b with af := af, ay0 := ay0 } := by
  refine ⟨fun r hr => ?_, fun h => by simp [divWrites] at h, fun _ => rfl, fun _ => rfl⟩
  cases r <;> simp [divWrites, Bank.read] at hr ⊢

theorem Bank.setMr_agreesOutside {ws : List Loc} (hws : mrWrites ⊆ ws) (r : Accum) (b : Bank) :
    b.AgreesOutside ws (b.setMr r) := by
  refine ⟨fun q hq => ?_, fun _ => rfl, fun _ => rfl, fun _ => rfl⟩
  have hq : Loc.data q ∉ mrWrites := fun h => hq (hws h)
  cases q <;> simp [mrWrites, Bank.read] at hq ⊢

theorem Bank.setMac_agreesOutside (d : MacDst) (r : Accum) (b : Bank) :
    b.AgreesOutside (macWrites d) (b.setMac d r) := by
  cases d with
  | mr => exact Bank.setMr_agreesOutside (by simp [mrWrites, macWrites]) r b
  | mf => exact ⟨fun q _ => by cases q <;> rfl, fun _ => rfl, fun h => by simp [macWrites] at h, fun _ => rfl⟩

theorem Bank.setSr_agreesOutside (r : Long) (b : Bank) : b.AgreesOutside srWrites (b.setSr r) := by
  refine ⟨fun q hq => ?_, fun _ => rfl, fun _ => rfl, fun _ => rfl⟩
  cases q <;> simp [srWrites, Bank.read] at hq ⊢

theorem Bank.setSe_agreesOutside {ws : List Loc} (hws : Loc.data .se ∈ ws) (e : BitVec 8) (b : Bank) :
    b.AgreesOutside ws { b with se := e } := by
  refine ⟨fun q hq => ?_, fun _ => rfl, fun _ => rfl, fun _ => rfl⟩
  have hse : q ≠ .se := fun h => hq (h ▸ hws)
  cases q <;> simp [Bank.read] at hse ⊢

theorem Bank.setSb_agreesOutside (e : BitVec 5) (b : Bank) :
    b.AgreesOutside [.reg (.status .sb)] { b with sb := e } :=
  ⟨fun q _ => by cases q <;> rfl, fun _ => rfl, fun _ => rfl, fun h => by simp at h⟩

/-- A load of a data register leaves what every other one reads, MR2 under a load of MR1 apart (R42, R43). -/
theorem Bank.read_load_of_ne {r q : DReg} (hne : q ≠ r) (hmr : ¬(r = .mr1 ∧ q = .mr2)) (v : Word) (b : Bank) :
    (b.load r v).read q = b.read q := by
  cases r <;> cases q <;> simp [Bank.load, Bank.read] at hne hmr ⊢

theorem data_mem_loadWrites {r q : DReg} :
    Loc.data q ∈ loadWrites (.data r) ↔ q = r ∨ (r = .mr1 ∧ q = .mr2) := by
  cases r <;> simp [loadWrites, Loc.data]

@[simp] theorem Bank.load_af (r : DReg) (v : Word) (b : Bank) : (b.load r v).af = b.af := by cases r <;> rfl
@[simp] theorem Bank.load_mf (r : DReg) (v : Word) (b : Bank) : (b.load r v).mf = b.mf := by cases r <;> rfl
@[simp] theorem Bank.load_sb (r : DReg) (v : Word) (b : Bank) : (b.load r v).sb = b.sb := by cases r <;> rfl

theorem Bank.load_agreesOutside (r : DReg) (v : Word) (b : Bank) :
    b.AgreesOutside (loadWrites (.data r)) (b.load r v) := by
  refine ⟨fun q hq => ?_, fun _ => b.load_af r v, fun _ => b.load_mf r v, fun _ => b.load_sb r v⟩
  rw [data_mem_loadWrites, not_or] at hq
  exact Bank.read_load_of_ne hq.1 hq.2 v b

/-! ## Writes to ASTAT -/

/-- The flags after an ALU function: AZ, AN, AV, AC, and AS where the function gives it (R83). -/
theorem aluFlags_agreesOutside (d : AluDst) (m : Mstat) (o : AluOut) (asBit : Option Bool) (a : Astat) :
    a.AgreesOutside (aluWrites d ++ asWrites asBit) (aluFlags m o asBit a) := by
  intro f hf
  cases asBit <;> cases d <;> cases f <;> simp [aluWrites, asWrites, aluFlags, Astat.flag] at hf ⊢

theorem Astat.setAQ_agreesOutside (q : Bool) (a : Astat) : a.AgreesOutside divWrites { a with AQ := q } := by
  intro f hf
  cases f <;> simp [divWrites, Astat.flag] at hf ⊢

theorem Astat.setMV_agreesOutside (d : MacDst) (v : Bool) (a : Astat) :
    a.AgreesOutside (macWrites d) { a with MV := v } := by
  intro f hf
  cases d <;> cases f <;> simp [macWrites, Astat.flag] at hf ⊢

theorem Astat.setSS_agreesOutside (b : Bool) (a : Astat) :
    a.AgreesOutside [.data .se, .flag .SS] { a with SS := b } := by
  intro f hf
  cases f <;> simp [Astat.flag] at hf ⊢

/-- A load of ASTAT writes all eight flags (R30). -/
theorem Astat.agreesOutside_allFlags (a a' : Astat) : a.AgreesOutside allFlags a' := by
  intro f hf
  cases f <;> simp [allFlags] at hf

/-! ## The shared steps -/

/-- A step that replaces the selected bank alone. -/
theorem State.setBank_advance_stepWrites {ws : List Loc} {s : State} {b : Bank} (hb : s.bank.AgreesOutside ws b) :
    s.StepWrites ws (s.setBank b).advance :=
  ⟨b, s.astat, s.mstat, rfl, hb, s.astat.agreesOutside_refl ws, fun _ => rfl⟩

theorem State.aluStep_stepWrites (d : AluDst) (o : AluOut) (asBit : Option Bool) (s : State) :
    s.StepWrites (aluWrites d ++ asWrites asBit) (s.aluStep d o asBit) :=
  ⟨_, _, s.mstat, s.aluStep_spec d o asBit, s.bank.setAlu_agreesOutside d s.mstat.arSat o _,
    aluFlags_agreesOutside d s.mstat o asBit s.astat, fun _ => rfl⟩

theorem State.divStep_stepWrites (o : DivOut) (s : State) : s.StepWrites divWrites (s.divStep o) :=
  ⟨_, _, s.mstat, s.divStep_spec o, s.bank.divide_agreesOutside _ _, s.astat.setAQ_agreesOutside o.q,
    fun _ => rfl⟩

theorem State.macWrite_stepWrites (d : MacDst) (r : Accum) (s : State) :
    s.StepWrites (macWrites d) (s.macWrite d r) :=
  ⟨_, _, s.mstat, s.macWrite_spec d r, s.bank.setMac_agreesOutside d r, s.astat.setMV_agreesOutside d _,
    fun _ => rfl⟩

theorem State.shiftWrite_stepWrites (orSr : Bool) (a : Long) (s : State) :
    s.StepWrites srWrites (s.shiftWrite orSr a) :=
  State.setBank_advance_stepWrites (s.bank.setSr_agreesOutside _)

theorem State.expWrite_stepWrites (e : Int) (sign : Bool) (s : State) :
    s.StepWrites [.data .se, .flag .SS] (s.expWrite e sign) :=
  ⟨_, _, s.mstat, s.expWrite_spec e sign, s.bank.setSe_agreesOutside (by simp) _,
    s.astat.setSS_agreesOutside sign, fun _ => rfl⟩

theorem State.loadData_advance_stepWrites (r : DReg) (v : Word) (s : State) :
    s.StepWrites (loadWrites (.data r)) (s.loadData s.mstat.secReg r v).advance :=
  State.setBank_advance_stepWrites (s.bank.load_agreesOutside r v)

theorem State.loadStatus_advance_stepWrites (r : SReg) (v : Word) (s : State) :
    s.StepWrites (loadWrites (.status r)) (s.loadStatus s.mstat.secReg r v).advance := by
  cases r with
  | astat =>
    exact ⟨s.bank, astatOfWord v, s.mstat, by rw [s.setBank_self]; rfl, s.bank.agreesOutside_refl _,
      s.astat.agreesOutside_allFlags _, fun _ => rfl⟩
  | mstat =>
    exact ⟨s.bank, s.astat, mstatOfWord v, by rw [s.setBank_self]; rfl, s.bank.agreesOutside_refl _,
      s.astat.agreesOutside_refl _, fun h => by simp [loadWrites] at h⟩
  | sb => exact State.setBank_advance_stepWrites (s.bank.setSb_agreesOutside (v.truncate 5))

/-- What an instruction can do: it writes the places of its rule and nothing else. -/
theorem exec_stepWrites {i : Instr} {s t : State} (h : exec i s = .next t) :
    s.StepWrites (instrWrites i) t := by
  cases i using instr_term_cases with
  | alu fn d x y =>
    rw [exec_aluTerm] at h
    cases h
    rw [instrWrites_aluTerm fn d x y (s.bank.aluX x)]
    exact s.aluStep_stepWrites d _ _
  | divs y x =>
    obtain ⟨-, rfl⟩ := execDivs_cases h
    exact s.divStep_stepWrites _
  | divq x => cases h; exact s.divStep_stepWrites _
  | mac fn fmt d x y =>
    rw [exec_macTerm] at h
    cases h
    rw [instrWrites_macTerm]
    exact s.macWrite_stepWrites d _
  | macClear d => cases h; exact s.macWrite_stepWrites d 0
  | satMr => cases h; exact State.setBank_advance_stepWrites (Bank.setMr_agreesOutside (List.Subset.refl _) _ _)
  | shift kind orSr hl x =>
    rw [exec_shiftTerm] at h
    cases h
    rw [instrWrites_shiftTerm]
    exact s.shiftWrite_stepWrites orSr _
  | shiftImm kind orSr hl x e =>
    rw [exec_shiftImmTerm] at h
    cases h
    rw [instrWrites_shiftImmTerm]
    exact s.shiftWrite_stepWrites orSr _
  | norm orSr hl x =>
    rw [exec_normTerm] at h
    obtain ⟨-, rfl⟩ := State.normStep_cases h
    rw [instrWrites_normTerm]
    exact s.shiftWrite_stepWrites orSr _
  | exp mode x =>
    cases mode with
    | hi => cases h; exact s.expWrite_stepWrites _ _
    | hix => cases h; exact s.expWrite_stepWrites _ _
    | lo =>
      cases h
      exact State.setBank_advance_stepWrites (s.bank.setSe_agreesOutside (List.mem_singleton_self _) _)
  | expadj x => cases h; exact State.setBank_advance_stepWrites (s.bank.setSb_agreesOutside _)
  | loadData r v => cases h; exact s.loadData_advance_stepWrites r v
  | loadStatus r v => cases h; exact s.loadStatus_advance_stepWrites r v
  | move dst src =>
    obtain ⟨w, u, -, hl, rfl⟩ := execMove_cases h
    obtain ⟨r, rfl, rfl⟩ | ⟨r, rfl, rfl⟩ := State.dmdLoadAt_cases hl
    · exact s.loadData_advance_stepWrites r w
    · exact s.loadStatus_advance_stepWrites r w

/-! ## Which instruction writes which flag -/

theorem flag_mem_aluWrites {f : Flag} {d : AluDst} :
    Loc.flag f ∈ aluWrites d ↔ f = .AZ ∨ f = .AN ∨ f = .AV ∨ f = .AC := by
  cases d <;> simp [aluWrites, Loc.data]

theorem flag_mem_divWrites {f : Flag} : Loc.flag f ∈ divWrites ↔ f = .AQ := by
  simp [divWrites, Loc.data]

theorem flag_mem_macWrites {f : Flag} {d : MacDst} : Loc.flag f ∈ macWrites d ↔ f = .MV := by
  cases d <;> simp [macWrites, Loc.data]

theorem flag_not_mem_mrWrites {f : Flag} : Loc.flag f ∉ mrWrites := by simp [mrWrites, Loc.data]

theorem flag_not_mem_srWrites {f : Flag} : Loc.flag f ∉ srWrites := by simp [srWrites, Loc.data]

/-- Of the loads over the bus only that of ASTAT writes flags (R30). -/
theorem eq_astat_of_flag_mem_loadWrites {f : Flag} {r : Reg} (h : Loc.flag f ∈ loadWrites r) :
    r = .status .astat := by
  cases r with
  | data r => cases r <;> simp [loadWrites, Loc.data] at h
  | status r => cases r <;> simp [loadWrites] at h ⊢
  | af => simp [loadWrites] at h
  | mf => simp [loadWrites] at h

/-- ABS is the one function that writes AS (R101). -/
theorem flag_mem_asWrites {f : Flag} {fn : AluFn} {w : Word} (h : Loc.flag f ∈ asWrites (aluFnAs fn w)) :
    f = .AS ∧ fn = .absx := by
  by_cases hfn : fn = .absx <;> simp [aluFnAs, hfn, asWrites] at h
  exact ⟨h, hfn⟩

/-- `i` is of the kind that alone writes flag `f`, loads of ASTAT apart (R29, R128). -/
def FlagWriter (f : Flag) (i : Instr) : Prop :=
  match f with
  | .AZ | .AN | .AV | .AC => ∃ fn d x y, i = aluTerm fn d x y
  | .AS => ∃ d x, i = .aluAbsx d x
  | .AQ => (∃ y x, i = .divs y x) ∨ ∃ x, i = .divq x
  | .MV => (∃ fn fmt d x y, i = macTerm fn fmt d x y) ∨ ∃ d, i = .macClear d
  | .SS => ∃ x, i = .expHi x ∨ i = .expHix x

/-- An instruction with a flag among its writes is that flag's writer or a load of ASTAT. -/
theorem flagWriter_of_mem_instrWrites {f : Flag} {i : Instr} (h : Loc.flag f ∈ instrWrites i) :
    FlagWriter f i ∨ (∃ v, i = .loadimmSreg .astat v) ∨ ∃ r, i = .move (.status .astat) r := by
  cases i using instr_term_cases with
  | alu fn d x y =>
    rw [instrWrites_aluTerm fn d x y 0, List.mem_append, flag_mem_aluWrites] at h
    obtain (rfl | rfl | rfl | rfl) | has := h
    iterate 4 exact .inl ⟨fn, d, x, y, rfl⟩
    obtain ⟨rfl, rfl⟩ := flag_mem_asWrites has
    exact .inl ⟨d, x, rfl⟩
  | divs y x => obtain rfl := flag_mem_divWrites.mp h; exact .inl (.inl ⟨y, x, rfl⟩)
  | divq x => obtain rfl := flag_mem_divWrites.mp h; exact .inl (.inr ⟨x, rfl⟩)
  | mac fn fmt d x y =>
    rw [instrWrites_macTerm] at h
    obtain rfl := flag_mem_macWrites.mp h
    exact .inl (.inl ⟨fn, fmt, d, x, y, rfl⟩)
  | macClear d => obtain rfl := flag_mem_macWrites.mp h; exact .inl (.inr ⟨d, rfl⟩)
  | satMr => exact absurd h flag_not_mem_mrWrites
  | shift kind orSr hl x => rw [instrWrites_shiftTerm] at h; exact absurd h flag_not_mem_srWrites
  | shiftImm kind orSr hl x e => rw [instrWrites_shiftImmTerm] at h; exact absurd h flag_not_mem_srWrites
  | norm orSr hl x => rw [instrWrites_normTerm] at h; exact absurd h flag_not_mem_srWrites
  | exp mode x =>
    cases mode with
    | hi =>
      obtain rfl : f = .SS := by simpa [expTerm, instrWrites, Loc.data] using h
      exact .inl ⟨x, .inl rfl⟩
    | hix =>
      obtain rfl : f = .SS := by simpa [expTerm, instrWrites, Loc.data] using h
      exact .inl ⟨x, .inr rfl⟩
    | lo => simp [expTerm, instrWrites, Loc.data] at h
  | expadj x => simp [instrWrites] at h
  | loadData r v => cases eq_astat_of_flag_mem_loadWrites h
  | loadStatus r v => cases eq_astat_of_flag_mem_loadWrites h; exact .inr (.inl ⟨v, rfl⟩)
  | move dst src => cases eq_astat_of_flag_mem_loadWrites h; exact .inr (.inr ⟨src, rfl⟩)

/-- A flag that an instruction changes, other than by a load of ASTAT, names the kind of instruction. -/
theorem flagWriter_of_flag_ne {i : Instr} {s t : State} (h : exec i s = .next t)
    (hload : ∀ v, i ≠ .loadimmSreg .astat v) (hmove : ∀ r, i ≠ .move (.status .astat) r)
    {f : Flag} (hne : t.astat.flag f ≠ s.astat.flag f) : FlagWriter f i := by
  obtain ⟨b, a, m, rfl, -, hflags, -⟩ := exec_stepWrites h
  have hmem : Loc.flag f ∈ instrWrites i := by
    by_contra hf
    exact hne (hflags f hf)
  obtain hw | ⟨v, rfl⟩ | ⟨r, rfl⟩ := flagWriter_of_mem_instrWrites hmem
  · exact hw
  · exact absurd rfl (hload v)
  · exact absurd rfl (hmove r)

end Sys2Proof.Machine
end

section
/-! The unselected bank is not read: every shared step, and so every instruction, commutes with replacing it
(R26). -/

namespace Sys2Proof.Machine

/-- The unselected bank replaced by another value. -/
def State.setOther (b : Bank) (s : State) : State := s.setBankAt (!s.mstat.secReg) b

@[simp] theorem State.setOther_astat (b : Bank) (s : State) : (s.setOther b).astat = s.astat := rfl
@[simp] theorem State.setOther_mstat (b : Bank) (s : State) : (s.setOther b).mstat = s.mstat := rfl
@[simp] theorem State.setOther_bank (b : Bank) (s : State) : (s.setOther b).bank = s.bank := by
  simpa [State.setOther, State.bank] using s.setBankAt_bankAt_other (!s.mstat.secReg) b
@[simp] theorem State.setOther_macResult (fn : MacFn) (fmt : MacFmt) (x : MacX) (y : MacY) (b : Bank) (s : State) :
    (s.setOther b).macResult fn fmt x y = s.macResult fn fmt x y := by
  simp only [State.macResult, State.setOther_bank]
  rfl
@[simp] theorem State.setOther_dmdRead (r : Reg) (b : Bank) (s : State) :
    (s.setOther b).dmdRead r = s.dmdRead r := by
  simp [State.dmdRead]

@[simp] theorem mapNext_next (f : State → State) (t : State) : mapNext f (.next t) = .next (f t) := rfl
@[simp] theorem mapNext_refused (f : State → State) (r : Refusal) : mapNext f (.refused r) = .refused r := rfl

/-! ## Replacing the other bank before a step or after it

After the step the bank is named by the MSTAT of the start, which a load may have changed. -/

theorem State.setBank_setOther (c b : Bank) (s : State) :
    (s.setOther b).setBank c = (s.setBank c).setBankAt (!s.mstat.secReg) b := by
  unfold State.setBank
  rw [State.setOther_mstat]
  cases h : s.mstat.secReg <;> simp [State.setOther, State.setBankAt, h]

theorem State.aluStep_setOther (d : AluDst) (o : AluOut) (asBit : Option Bool) (b : Bank) (s : State) :
    (s.setOther b).aluStep d o asBit = (s.aluStep d o asBit).setBankAt (!s.mstat.secReg) b := by
  simp only [State.aluStep_spec, State.setOther_bank, State.setBank_setOther]
  rfl

theorem State.divStep_setOther (o : DivOut) (b : Bank) (s : State) :
    (s.setOther b).divStep o = (s.divStep o).setBankAt (!s.mstat.secReg) b := by
  simp only [State.divStep_spec, State.setOther_bank, State.setBank_setOther]
  rfl

theorem State.macWrite_setOther (d : MacDst) (r : Accum) (b : Bank) (s : State) :
    (s.setOther b).macWrite d r = (s.macWrite d r).setBankAt (!s.mstat.secReg) b := by
  simp only [State.macWrite_spec, State.setOther_bank, State.setBank_setOther]
  rfl

theorem State.shiftWrite_setOther (orSr : Bool) (a : Long) (b : Bank) (s : State) :
    (s.setOther b).shiftWrite orSr a = (s.shiftWrite orSr a).setBankAt (!s.mstat.secReg) b := by
  simp only [State.shiftWrite_spec, State.setOther_bank, State.setBank_setOther]
  rfl

theorem State.shiftStep_setOther (kind : ShiftKind) (orSr : Bool) (hl : HiLo) (x : ShX) (c : Int) (b : Bank)
    (s : State) :
    (s.setOther b).shiftStep kind orSr hl x c = (s.shiftStep kind orSr hl x c).setBankAt (!s.mstat.secReg) b := by
  simp only [State.shiftStep, State.setOther_bank, State.shiftWrite_setOther]

theorem State.normStep_setOther (orSr : Bool) (hl : HiLo) (x : ShX) (b : Bank) (s : State) :
    (s.setOther b).normStep orSr hl x =
      mapNext (State.setBankAt (!s.mstat.secReg) b) (s.normStep orSr hl x) := by
  simp only [State.normStep, State.setOther_bank, State.setOther_astat, State.shiftWrite_setOther]
  split <;> rfl

theorem State.expWrite_setOther (e : Int) (sign : Bool) (b : Bank) (s : State) :
    (s.setOther b).expWrite e sign = (s.expWrite e sign).setBankAt (!s.mstat.secReg) b := by
  simp only [State.expWrite_spec, State.setOther_bank, State.setBank_setOther]
  rfl

theorem State.advance_setBankAt (sec : Bool) (b : Bank) (s : State) :
    (s.setBankAt sec b).advance = s.advance.setBankAt sec b := rfl

theorem State.loadData_setOther (r : DReg) (v : Word) (b : Bank) (s : State) :
    (s.setOther b).loadData s.mstat.secReg r v =
      (s.loadData s.mstat.secReg r v).setBankAt (!s.mstat.secReg) b :=
  calc (s.setOther b).loadData s.mstat.secReg r v
    _ = (s.setOther b).setBank ((s.setOther b).bank.load r v) := rfl
    _ = (s.setBank (s.bank.load r v)).setBankAt (!s.mstat.secReg) b := by
        rw [State.setOther_bank, State.setBank_setOther]

theorem State.loadStatus_setOther (r : SReg) (v : Word) (b : Bank) (s : State) :
    (s.setOther b).loadStatus s.mstat.secReg r v =
      (s.loadStatus s.mstat.secReg r v).setBankAt (!s.mstat.secReg) b := by
  cases r with
  | astat => rfl
  | mstat => rfl
  | sb =>
    calc (s.setOther b).loadStatus s.mstat.secReg .sb v
      _ = (s.setOther b).setBank { (s.setOther b).bank with sb := v.truncate 5 } := rfl
      _ = (s.setBank { s.bank with sb := v.truncate 5 }).setBankAt (!s.mstat.secReg) b := by
          rw [State.setOther_bank, State.setBank_setOther]

theorem State.dmdLoad_setOther (r : Reg) (v : Word) (b : Bank) (s : State) :
    (s.setOther b).dmdLoad r v = (s.dmdLoad r v).map (State.setBankAt (!s.mstat.secReg) b) := by
  cases r with
  | data r => exact congrArg some (s.loadData_setOther r v b)
  | status r => exact congrArg some (s.loadStatus_setOther r v b)
  | af => rfl
  | mf => rfl

theorem execMove_setOther (dst src : Reg) (b : Bank) (s : State) :
    execMove dst src (s.setOther b) = mapNext (State.setBankAt (!s.mstat.secReg) b) (execMove dst src s) := by
  unfold execMove
  rw [State.setOther_dmdRead]
  cases s.dmdRead src with
  | none => rfl
  | some w =>
    simp only [State.dmdLoad_setOther]
    cases s.dmdLoad dst w <;> rfl

/-- Every instruction does the same whatever the unselected bank holds, and leaves that there (R26). -/
theorem exec_setOther (i : Instr) (b : Bank) (s : State) :
    exec i (s.setOther b) = mapNext (State.setBankAt (!s.mstat.secReg) b) (exec i s) := by
  cases i using instr_term_cases with
  | alu fn d x y => simp [exec_aluTerm, State.aluStep_setOther]
  | divs y x => cases y <;> simp [exec_divs, execDivs, State.divStep_setOther]
  | divq x => simp [exec_divq, State.divStep_setOther]
  | mac fn fmt d x y => simp [exec_macTerm, State.macWrite_setOther]
  | macClear d => simp [exec_macClear, State.macWrite_setOther]
  | satMr => simp [exec_satMr, State.setBank_setOther, State.advance_setBankAt]
  | shift kind orSr hl x => simp [exec_shiftTerm, State.shiftStep_setOther]
  | shiftImm kind orSr hl x e => simp [exec_shiftImmTerm, State.shiftStep_setOther]
  | norm orSr hl x => simp [exec_normTerm, State.normStep_setOther]
  | exp mode x =>
    cases mode with
    | hi => simp [expTerm, exec_expHi, State.expWrite_setOther]
    | hix => simp [expTerm, exec_expHix, State.expWrite_setOther]
    | lo => simp [expTerm, exec_expLo, State.setBank_setOther, State.advance_setBankAt]
  | expadj x => simp [exec_expadj, State.setBank_setOther, State.advance_setBankAt]
  | loadData r v => simp [exec_loadimmDreg, State.loadData_setOther, State.advance_setBankAt]
  | loadStatus r v => simp [exec_loadimmSreg, State.loadStatus_setOther, State.advance_setBankAt]
  | move dst src => exact execMove_setOther dst src b s

end Sys2Proof.Machine
end

section
/-! The obligations of 10_state.md: the run, the banks, the frames, and the loads of the status group. -/

namespace Sys2Proof.Machine

/-! ## The run -/

/-- There is a word to fetch only before the end of the list. -/
theorem State.idx_lt_of_fetch {s : State} {w : ProgWord} (h : s.fetch = some w) : s.idx < s.prog.length :=
  (List.getElem?_eq_some_iff.mp h).1

/-- What any step can do: before the end of the list it replaces the selected bank, ASTAT and MSTAT, and moves
the position on by one (R34). -/
theorem step_shape {s t : State} (h : step s = .next t) :
    s.idx < s.prog.length ∧ ∃ b a m, t = { s.setBank b with astat := a, mstat := m, idx := s.idx + 1 } := by
  obtain ⟨w, i, hf, -, hx⟩ := step_cases h
  exact ⟨State.idx_lt_of_fetch hf, exec_shape hx⟩

/-- Settles O8: `step_shape` leaves the data of the run, and the position was before the list's end. -/
theorem stepKeepsRun : Obligations.StepKeepsRun := by
  unfold Obligations.StepKeepsRun
  rintro p c b s t ⟨hp, hc, hb, -⟩ h
  obtain ⟨hlt, b', a, m, rfl⟩ := step_shape h
  rw [hp] at hlt
  exact ⟨hp, hc, hb, hlt⟩

/-- A run of `k + 1` steps is one step and a run of `k`. -/
theorem core_run_succ_cases {M : Host.Core} {k : Nat} {s t : M.State} (h : M.run (k + 1) s = .next t) :
    ∃ u, M.step s = .next u ∧ M.run k u = .next t := by
  unfold Host.Core.run at h
  split at h
  case h_1 u hu => exact ⟨u, hu, h⟩
  case h_2 => cases h
  case h_3 => cases h

/-- Settles O10, by induction on the number of steps, each of which keeps the run (O8). -/
theorem runAdvancesByOne : Obligations.RunAdvancesByOne := by
  unfold Obligations.RunAdvancesByOne
  intro p c b k
  induction k with
  | zero =>
    intro s t hs h
    cases h
    exact ⟨hs, rfl⟩
  | succ k ih =>
    intro s t hs h
    obtain ⟨u, hu, hrun⟩ := core_run_succ_cases h
    obtain ⟨ht, hidx⟩ := ih u t (stepKeepsRun p c b s u hs hu) hrun
    have hstep : u.idx = s.idx + 1 := by
      obtain ⟨-, b', a, m, rfl⟩ := step_shape hu
      rfl
    exact ⟨ht, by omega⟩

/-- Settles O5. -/
theorem stepRunsDecoded : Obligations.StepRunsDecoded := by
  unfold Obligations.StepRunsDecoded
  intro s w i hf hd
  simp [step, State.fetch, hf, hd]

/-- Settles O6: past the length of the list there is no word to fetch. -/
theorem runEndsAtLength : Obligations.RunEndsAtLength := by
  unfold Obligations.RunEndsAtLength
  intro s h
  have hf : s.fetch = none := List.getElem?_eq_none h
  simp [step, hf]

/-! ## Banks -/

/-- Settles O14: the unselected bank is not read by any shared step (`exec_setOther`). -/
theorem unselectedBankUnobserved : Obligations.UnselectedBankUnobserved := by
  unfold Obligations.UnselectedBankUnobserved
  intro i s b
  have hother := exec_setOther i b s
  refine ⟨rfl, fun hsec => ?_, fun hsec => ?_, fun v => ⟨_, exec_loadimmSreg .mstat v s, rfl, rfl⟩⟩ <;>
    rw [State.setOther, hsec] at hother <;> exact hother

/-- Settles O13: an instruction replaces the selected bank only (`exec_shape`). -/
theorem unselectedBankKept : Obligations.UnselectedBankKept := by
  unfold Obligations.UnselectedBankKept
  intro i s t h
  obtain ⟨b, a, m, rfl⟩ := exec_shape h
  exact s.setBank_bankAt_other b

/-! ## Frames and flags -/

/-- Settles O16: `exec_stepWrites` read place by place. -/
theorem frameOfEveryInstruction : Obligations.FrameOfEveryInstruction := by
  unfold Obligations.FrameOfEveryInstruction
  intro i s t h
  obtain ⟨b, a, m, rfl, hbank, hflags, hmstat⟩ := exec_stepWrites h
  have hsel : ({ s.setBank b with astat := a, mstat := m, idx := s.idx + 1 } : State).bankAt s.mstat.secReg = b :=
    s.setBankAt_bankAt s.mstat.secReg b
  rw [hsel]
  exact ⟨hbank.read_eq, hbank.af_eq, hbank.mf_eq, hbank.sb_eq, hflags, hmstat, s.setBank_bankAt_other b,
    rfl, rfl, rfl, rfl⟩

/-- Settles O17: a changed flag is among the writes of the instruction, and those name its kind
(`flagWriter_of_flag_ne`). -/
theorem flagWriters : Obligations.FlagWriters := by
  unfold Obligations.FlagWriters
  intro i s t h hload hmove
  have writer (f : Flag) (hne : t.astat.flag f ≠ s.astat.flag f) : FlagWriter f i :=
    flagWriter_of_flag_ne h hload hmove hne
  refine ⟨writer .AS, writer .AQ, writer .MV, writer .SS, ?_⟩
  rintro (hne | hne | hne | hne)
  · exact writer .AZ hne
  · exact writer .AN hne
  · exact writer .AV hne
  · exact writer .AC hne

/-! ## Operands and the status group -/

/-- Settles O26: each port's table, by the definition of the port. -/
theorem operandSources : Obligations.OperandSources := by
  unfold Obligations.OperandSources
  intro b
  exact ⟨rfl, rfl, rfl, rfl, rfl⟩

/-- A load of SB takes the low 5 bits of the bus (R44). -/
theorem State.loadStatus_sb (v : Word) (s : State) :
    s.loadStatus s.mstat.secReg .sb v = s.setBank { s.bank with sb := v.extractLsb' 0 5 } := by
  rw [← BitVec.setWidth_eq_extractLsb' (by decide)]
  rfl

/-- Settles O52: the layouts of ASTAT and MSTAT are those of log 4 by definition. -/
theorem loadStatusRegister : Obligations.LoadStatusRegister := by
  unfold Obligations.LoadStatusRegister
  intro v s
  refine ⟨rfl, rfl, ?_⟩
  rw [exec_loadimmSreg, State.loadStatus_sb, onSelected_eq_setBank]
  rfl

/-- Settles O15: the load is that of O52, and the bank follows its bit 0. -/
theorem mstatLoadSwitchesBank : Obligations.MstatLoadSwitchesBank := by
  unfold Obligations.MstatLoadSwitchesBank
  intro v s
  obtain ⟨-, hmstat, -⟩ := loadStatusRegister v s
  exact ⟨_, hmstat, rfl, rfl⟩

end Sys2Proof.Machine
end

section
/-! The registers over the buses: which access each has, what a read returns after a load, and the word ASTAT
drives (R30, R41 to R45). -/

namespace Sys2Proof.Machine

/-! ## Access -/

/-- The registers without a read over the bus are those R56 leaves out. -/
theorem State.dmdRead_eq_none_iff {r : Reg} {s : State} : s.dmdRead r = none ↔ r.readable = false := by
  cases r with
  | data r => simp [State.dmdRead, Reg.readable]
  | status r => cases r <;> simp [State.dmdRead, Reg.readable]
  | af => simp [State.dmdRead, Reg.readable]
  | mf => simp [State.dmdRead, Reg.readable]

theorem State.dmdRead_of_readable {r : Reg} (h : r.readable = true) (s : State) : ∃ w, s.dmdRead r = some w :=
  Option.ne_none_iff_exists'.mp fun hnone => by simp [State.dmdRead_eq_none_iff.mp hnone] at h

/-- The registers without a load over the bus are AF and MF (R45). -/
theorem State.dmdLoadAt_eq_none_iff {sec : Bool} {r : Reg} {v : Word} {s : State} :
    s.dmdLoadAt sec r v = none ↔ r.loadable = false := by
  cases r <;> simp [State.dmdLoadAt, Reg.loadable]

theorem State.dmdLoadAt_of_loadable {r : Reg} (h : r.loadable = true) (sec : Bool) (v : Word) (s : State) :
    ∃ t, s.dmdLoadAt sec r v = some t :=
  Option.ne_none_iff_exists'.mp fun hnone => by simp [State.dmdLoadAt_eq_none_iff.mp hnone] at h

theorem State.dmdLoad_data (r : DReg) (v : Word) (s : State) :
    s.dmdLoad (.data r) v = some (s.setBank (s.bank.load r v)) := rfl

theorem State.dmdRead_data (r : DReg) (s : State) : s.dmdRead (.data r) = some (s.bank.read r) := rfl

/-! ## Narrow registers on the bus -/

theorem setWidth_signExtend {n m : Nat} (h : n ≤ m) (x : BitVec n) : (x.signExtend m).setWidth n = x := by
  ext i hi
  simp [BitVec.getElem_signExtend, hi, Nat.lt_of_lt_of_le hi h]

/-- MR2 is what its read says it is: sign extension loses nothing (R44). -/
theorem Bank.mr2_eq_of_read_eq {b b' : Bank} (h : b'.read .mr2 = b.read .mr2) : b'.mr2 = b.mr2 := by
  simpa [Bank.read, setWidth_signExtend] using congrArg (BitVec.setWidth 8) h

/-- SE is what its read says it is (R44). -/
theorem Bank.se_eq_of_read_eq {b b' : Bank} (h : b'.read .se = b.read .se) : b'.se = b.se := by
  simpa [Bank.read, setWidth_signExtend] using congrArg (BitVec.setWidth 8) h

/-- A data register reads back what was loaded into it, the narrow ones the sign extension of its low 8 bits
(R42, R44). -/
theorem Bank.read_load_self (r : DReg) (v : Word) (b : Bank) :
    (b.load r v).read r = if r = .mr2 ∨ r = .se then (v.truncate 8).signExtend 16 else v := by
  cases r <;> rfl

theorem mr2OfMr1_eq (v : Word) : mr2OfMr1 v = if v.getLsbD 15 then 0xFF else 0x00 := by
  rw [mr2OfMr1, BitVec.msb_eq_getLsbD_last]

/-! ## ASTAT on the bus -/

/-- A flag's word has that flag's bit and no other flag's. -/
theorem flagWord_getLsbD (f g : Flag) (b : Bool) :
    (flagWord f b).getLsbD (astatBit g) = (b && decide (f = g)) := by
  cases b
  · simp [flagWord]
  · cases f <;> cases g <;> rfl

theorem flagWord_toNat_lt (f : Flag) (b : Bool) : (flagWord f b).toNat < 2 ^ 8 := by
  cases b <;> cases f <;> decide

/-- Each flag stands at its own bit of the word ASTAT drives (R30). -/
theorem wordOfAstat_getLsbD (a : Astat) (g : Flag) : (wordOfAstat a).getLsbD (astatBit g) = a.flag g := by
  simp only [wordOfAstat, BitVec.getLsbD_or, flagWord_getLsbD]
  cases g <;> simp [Astat.flag]

/-- The word ASTAT drives has zeros above its eight flags (D25). -/
theorem wordOfAstat_toNat_lt (a : Astat) : (wordOfAstat a).toNat < 2 ^ 8 := by
  simp only [wordOfAstat, BitVec.toNat_or]
  iterate 7 refine Nat.or_lt_two_pow ?_ (flagWord_toNat_lt _ _)
  exact flagWord_toNat_lt _ _

/-- Two values of ASTAT with the same flags are the same. -/
theorem Astat.eq_of_flag_eq {a a' : Astat} (h : ∀ f, a'.flag f = a.flag f) : a' = a := by
  obtain ⟨AZ, AN, AV, AC, AS, AQ, MV, SS⟩ := a
  obtain ⟨AZ', AN', AV', AC', AS', AQ', MV', SS'⟩ := a'
  obtain rfl : AZ' = AZ := h .AZ
  obtain rfl : AN' = AN := h .AN
  obtain rfl : AV' = AV := h .AV
  obtain rfl : AC' = AC := h .AC
  obtain rfl : AS' = AS := h .AS
  obtain rfl : AQ' = AQ := h .AQ
  obtain rfl : MV' = MV := h .MV
  obtain rfl : SS' = SS := h .SS
  rfl

theorem astatOfWord_flag (v : Word) (f : Flag) : (astatOfWord v).flag f = v.getLsbD (astatBit f) := by
  cases f <;> rfl

/-- A load of ASTAT takes up what a read of it drove. -/
theorem astatOfWord_wordOfAstat (a : Astat) : astatOfWord (wordOfAstat a) = a :=
  Astat.eq_of_flag_eq fun f => (astatOfWord_flag _ f).trans (wordOfAstat_getLsbD a f)

end Sys2Proof.Machine
end

section
/-! Loads in a cycle: what one load over the DMD bus leaves alone and what its register then holds, and the same of
any list of transfers, by induction on the list (R26, R42 to R47). -/

namespace Sys2Proof.Machine

/-! ## States that agree outside a list of places -/

theorem sameOutside_refl (sec : Bool) (ws : List Loc) (t : State) : SameOutside sec ws t t :=
  ⟨fun _ _ => rfl, fun _ => rfl, fun _ _ => rfl, fun _ => rfl, rfl, rfl, rfl, rfl, rfl, rfl, rfl⟩

theorem SameOutside.trans {sec : Bool} {ws ws' : List Loc} {t u v : State} (h : SameOutside sec ws t u)
    (h' : SameOutside sec ws' u v) : SameOutside sec (ws ++ ws') t v := by
  obtain ⟨hdata, hsb, hflag, hmstat, haf, hmf, hother, hbias, hconfig, hprog, hidx⟩ := h
  obtain ⟨hdata', hsb', hflag', hmstat', haf', hmf', hother', hbias', hconfig', hprog', hidx'⟩ := h'
  have left {l : Loc} (hl : l ∉ ws ++ ws') : l ∉ ws := fun hm => hl (List.mem_append_left _ hm)
  have right {l : Loc} (hl : l ∉ ws ++ ws') : l ∉ ws' := fun hm => hl (List.mem_append_right _ hm)
  exact ⟨fun d hd => (hdata' d (right hd)).trans (hdata d (left hd)),
    fun h => (hsb' (right h)).trans (hsb (left h)),
    fun f hf => (hflag' f (right hf)).trans (hflag f (left hf)),
    fun h => (hmstat' (right h)).trans (hmstat (left h)),
    haf'.trans haf, hmf'.trans hmf, hother'.trans hother, hbias'.trans hbias, hconfig'.trans hconfig,
    hprog'.trans hprog, hidx'.trans hidx⟩

/-- A state with its bank, ASTAT and MSTAT replaced, each only at the places in `ws`, which loads reach (R45). -/
theorem sameOutside_of_agreesOutside {sec : Bool} {ws : List Loc} {t : State} {b : Bank} {a : Astat} {m : Mstat}
    (hws : ∀ q, Loc.reg q ∈ ws → q.loadable = true) (hb : (t.bankAt sec).AgreesOutside ws b)
    (ha : t.astat.AgreesOutside ws a) (hm : Loc.reg (.status .mstat) ∉ ws → m = t.mstat) :
    SameOutside sec ws t { t.setBankAt sec b with astat := a, mstat := m } := by
  have hsel : ({ t.setBankAt sec b with astat := a, mstat := m } : State).bankAt sec = b :=
    t.setBankAt_bankAt sec b
  unfold SameOutside
  rw [hsel]
  exact ⟨hb.read_eq, hb.sb_eq, ha, hm, hb.af_eq (fun h => nomatch hws .af h),
    hb.mf_eq (fun h => nomatch hws .mf h), t.setBankAt_bankAt_other sec b,
    rfl, rfl, rfl, rfl⟩

/-! ## One load -/

/-- The registers a load over the bus writes are loadable, so AF and MF are not among them (R45). -/
theorem loadable_of_mem_loadWrites {q r : Reg} (h : Loc.reg q ∈ loadWrites r) : q.loadable = true := by
  cases r with
  | data r =>
    cases r
    case mr1 =>
      obtain rfl | rfl : q = .data .mr1 ∨ q = .data .mr2 := by simpa [loadWrites, Loc.data] using h
      · rfl
      · rfl
    all_goals
      simp only [loadWrites, Loc.data, List.mem_singleton, Loc.reg.injEq] at h
      subst h
      rfl
  | status r => cases r <;> simp [loadWrites, allFlags] at h <;> simp [h, Reg.loadable]
  | af => simp [loadWrites] at h
  | mf => simp [loadWrites] at h

theorem State.loadData_sameOutside (sec : Bool) (d : DReg) (v : Word) (t : State) :
    SameOutside sec (loadWrites (.data d)) t (t.loadData sec d v) :=
  sameOutside_of_agreesOutside (fun _ => loadable_of_mem_loadWrites) ((t.bankAt sec).load_agreesOutside d v)
    (t.astat.agreesOutside_refl _) (fun _ => rfl)

theorem State.loadStatus_sameOutside (sec : Bool) (d : SReg) (v : Word) (t : State) :
    SameOutside sec (loadWrites (.status d)) t (t.loadStatus sec d v) := by
  cases d with
  | astat =>
    have h := sameOutside_of_agreesOutside (ws := loadWrites (.status .astat)) (m := t.mstat)
      (fun _ => loadable_of_mem_loadWrites) ((t.bankAt sec).agreesOutside_refl _)
      (t.astat.agreesOutside_allFlags (astatOfWord v)) (fun _ => rfl)
    rwa [State.setBankAt_self] at h
  | mstat =>
    have h := sameOutside_of_agreesOutside (m := mstatOfWord v) (fun _ => loadable_of_mem_loadWrites)
      ((t.bankAt sec).agreesOutside_refl (loadWrites (.status .mstat))) (t.astat.agreesOutside_refl _)
      (fun h => by simp [loadWrites] at h)
    rwa [State.setBankAt_self] at h
  | sb =>
    exact sameOutside_of_agreesOutside (fun _ => loadable_of_mem_loadWrites)
      ((t.bankAt sec).setSb_agreesOutside (v.truncate 5)) (t.astat.agreesOutside_refl _) (fun _ => rfl)

/-- A load over the DMD bus writes the places of its register and nothing else. -/
theorem State.dmdLoadAt_sameOutside {sec : Bool} {r : Reg} {v : Word} {t u : State}
    (h : t.dmdLoadAt sec r v = some u) : SameOutside sec (loadWrites r) t u := by
  obtain ⟨d, rfl, rfl⟩ | ⟨d, rfl, rfl⟩ := State.dmdLoadAt_cases h
  · exact t.loadData_sameOutside sec d v
  · exact t.loadStatus_sameOutside sec d v

theorem State.loadData_loadedWith (sec : Bool) (d : DReg) (v : Word) (t : State) :
    LoadedWith sec (.data d) v (t.loadData sec d v) := by
  have low8 : v.truncate 8 = v.extractLsb' 0 8 := BitVec.setWidth_eq_extractLsb' (by decide)
  cases d
  case mr1 => simp [LoadedWith, State.loadData_spec, Bank.load, mr2OfMr1_eq]
  case mr2 => simpa [LoadedWith, State.loadData_spec, Bank.load] using low8
  case se => simpa [LoadedWith, State.loadData_spec, Bank.load] using low8
  all_goals simp [LoadedWith, State.loadData_spec, Bank.read_load_self]

theorem State.loadStatus_loadedWith (sec : Bool) (d : SReg) (v : Word) (t : State) :
    LoadedWith sec (.status d) v (t.loadStatus sec d v) := by
  cases d with
  | astat => rfl
  | mstat => rfl
  | sb =>
    have low5 : v.truncate 5 = v.extractLsb' 0 5 := BitVec.setWidth_eq_extractLsb' (by decide)
    simpa [LoadedWith, State.loadStatus] using low5

/-- After a load over the DMD bus its register holds the value loaded. -/
theorem State.dmdLoadAt_loadedWith {sec : Bool} {r : Reg} {v : Word} {t u : State}
    (h : t.dmdLoadAt sec r v = some u) : LoadedWith sec r v u := by
  obtain ⟨d, rfl, rfl⟩ | ⟨d, rfl, rfl⟩ := State.dmdLoadAt_cases h
  · exact t.loadData_loadedWith sec d v
  · exact t.loadStatus_loadedWith sec d v

/-- A register keeps the value loaded while nothing its load wrote is written again. -/
theorem LoadedWith.of_sameOutside {sec : Bool} {r : Reg} {v : Word} {ws : List Loc} {t u : State}
    (h : LoadedWith sec r v t) (hsame : SameOutside sec ws t u) (hws : (loadWrites r).Disjoint ws) :
    LoadedWith sec r v u := by
  obtain ⟨hdata, hsb, hflag, hmstat, -⟩ := hsame
  have kept (d : DReg) (hd : Loc.data d ∈ loadWrites r) : (u.bankAt sec).read d = (t.bankAt sec).read d :=
    hdata d (hws hd)
  cases r with
  | data d =>
    have hself := kept d (data_mem_loadWrites.mpr (.inl rfl))
    cases d
    case mr1 =>
      have hmr2 := kept .mr2 (data_mem_loadWrites.mpr (.inr ⟨rfl, rfl⟩))
      exact ⟨hself.trans h.1, (Bank.mr2_eq_of_read_eq hmr2).trans h.2⟩
    case mr2 => exact (Bank.mr2_eq_of_read_eq hself).trans h
    case se => exact (Bank.se_eq_of_read_eq hself).trans h
    all_goals exact hself.trans h
  | status d =>
    cases d with
    | astat =>
      have hall (f : Flag) : u.astat.flag f = t.astat.flag f :=
        hflag f (hws (by cases f <;> simp [loadWrites, allFlags]))
      exact (Astat.eq_of_flag_eq hall).trans h
    | mstat => exact (hmstat (hws (by simp [loadWrites]))).trans h
    | sb => exact (hsb (hws (by simp [loadWrites]))).trans h
  | af => exact h
  | mf => exact h

/-! ## The transfers of a cycle -/

theorem transferWrites_of_loadOf {x : Transfer} {r : Reg} {v : Word} (h : loadOf x = some (r, v)) :
    transferWrites x = loadWrites r := by
  simp [transferWrites, h]

theorem transferWrites_of_no_load {x : Transfer} (h : loadOf x = none) : transferWrites x = [] := by
  simp [transferWrites, h]

/-- A transfer has its access when the register it loads, if any, is loadable and the one it reads, if any, is
readable (R45). -/
theorem Transfer.accessible_iff {x : Transfer} :
    x.accessible = true ↔
      (∀ r v, loadOf x = some (r, v) → r.loadable = true) ∧ ∀ r, readOf x = some r → r.readable = true := by
  cases x <;> simp [Transfer.accessible, loadOf, readOf]

/-- The loads of a cycle, no place written twice and all registers loadable: every register loaded keeps its value
to the end, since the loads after it write other places. -/
theorem applyLoads_spec (sec : Bool) (ts : List Transfer) (t : State)
    (hacc : ∀ x ∈ ts, ∀ r v, loadOf x = some (r, v) → r.loadable = true)
    (hnodup : (ts.flatMap transferWrites).Nodup) :
    ∃ u, applyLoads sec ts t = .next u ∧
      (∀ x ∈ ts, ∀ r v, loadOf x = some (r, v) → LoadedWith sec r v u) ∧
      SameOutside sec (ts.flatMap transferWrites) t u := by
  induction ts generalizing t with
  | nil => exact ⟨t, rfl, by simp, sameOutside_refl sec _ t⟩
  | cons x ts ih =>
    obtain ⟨haccx, haccts⟩ := List.forall_mem_cons.mp hacc
    rw [List.flatMap_cons] at hnodup ⊢
    obtain ⟨-, hnodupts, hdisjoint⟩ := List.nodup_append'.mp hnodup
    cases hx : loadOf x with
    | none =>
      obtain ⟨u, hrun, hloaded, hsame⟩ := ih t haccts hnodupts
      refine ⟨u, (applyLoads_cons_other hx sec ts t).trans hrun, List.forall_mem_cons.mpr ⟨?_, hloaded⟩, ?_⟩
      · simp [hx]
      · simpa [transferWrites_of_no_load hx] using hsame
    | some load =>
      obtain ⟨r, v⟩ := load
      obtain ⟨t', ht'⟩ := State.dmdLoadAt_of_loadable (haccx r v hx) sec v t
      obtain ⟨u, hrun, hloaded, hsame⟩ := ih t' haccts hnodupts
      rw [transferWrites_of_loadOf hx] at hdisjoint ⊢
      refine ⟨u, (applyLoads_cons_load hx ht' ts).trans hrun, List.forall_mem_cons.mpr ⟨?_, hloaded⟩,
        (State.dmdLoadAt_sameOutside ht').trans hsame⟩
      intro r' v' hx'
      obtain ⟨rfl, rfl⟩ : r = r' ∧ v = v' := by simpa [hx] using hx'
      exact (State.dmdLoadAt_loadedWith ht').of_sameOutside hsame hdisjoint

/-- A load of a register without the access stops the loads of a cycle. -/
theorem applyLoads_refused {sec : Bool} {ts : List Transfer} {x : Transfer} (hmem : x ∈ ts) {r : Reg} {v : Word}
    (hx : loadOf x = some (r, v)) (hr : r.loadable = false) (t : State) :
    ∃ q, applyLoads sec ts t = .refused (.noBusAccess q) := by
  induction ts generalizing t with
  | nil => cases hmem
  | cons y ts ih =>
    cases hy : loadOf y with
    | none =>
      have hne : x ≠ y := by rintro rfl; simp [hx] at hy
      rw [applyLoads_cons_other hy]
      exact ih ((List.mem_cons.mp hmem).resolve_left hne) t
    | some load =>
      obtain ⟨p, w⟩ := load
      cases hl : t.dmdLoadAt sec p w with
      | none => exact ⟨p, by simp [applyLoads, hy, hl]⟩
      | some t' =>
        have hne : x ≠ y := by
          rintro rfl
          obtain ⟨rfl, rfl⟩ : r = p ∧ v = w := by simpa [hx] using hy
          simp [State.dmdLoadAt_eq_none_iff.mpr hr] at hl
        rw [applyLoads_cons_load hy hl]
        exact ih ((List.mem_cons.mp hmem).resolve_left hne) t'

/-- The reads of a cycle, all registers readable, drive what the registers hold in the state read. -/
theorem busReads_eq_readsAt (s : State) (ts : List Transfer)
    (hacc : ∀ x ∈ ts, ∀ r, readOf x = some r → r.readable = true) : busReads s ts = .ok (readsAt s ts) := by
  induction ts with
  | nil => rfl
  | cons x ts ih =>
    obtain ⟨haccx, haccts⟩ := List.forall_mem_cons.mp hacc
    cases hx : readOf x with
    | none => rw [busReads_cons_other hx, ih haccts]; simp [readsAt, hx]
    | some r =>
      obtain ⟨w, hw⟩ := State.dmdRead_of_readable (haccx r hx) s
      rw [busReads_cons_read hx hw (ih haccts)]
      simp [readsAt, hx, hw]

/-- Reads that all succeed are of readable registers. -/
theorem readable_of_busReads {s : State} {ts : List Transfer} {ws : List Word} (h : busReads s ts = .ok ws) :
    ∀ x ∈ ts, ∀ r, readOf x = some r → r.readable = true := by
  induction ts generalizing ws with
  | nil => simp
  | cons y ts ih =>
    cases hy : readOf y with
    | none =>
      rw [busReads_cons_other hy] at h
      exact List.forall_mem_cons.mpr ⟨by simp [hy], ih h⟩
    | some p =>
      cases hr : s.dmdRead p with
      | none => simp [busReads, hy, hr] at h
      | some w =>
        cases hs : busReads s ts with
        | error e => simp [busReads, hy, hr, hs] at h
        | ok ws' =>
          refine List.forall_mem_cons.mpr ⟨?_, ih hs⟩
          intro r hx
          obtain rfl : p = r := by simpa [hy] using hx
          by_contra hp
          simp [State.dmdRead_eq_none_iff.mpr (Bool.eq_false_of_not_eq_true hp)] at hr

end Sys2Proof.Machine
end

section
/-! The multifunction cycle: when it executes, when it is refused, and that it sees of a transfer only the register
it loads and the register it reads (R41, R46, R47). -/

namespace Sys2Proof.Machine

/-! ## Executed or refused -/

theorem cycle_of_two_writers {op : Instr} {ts : List Transfer} (h : ¬(cycleWrites op ts).Nodup) (s : State) :
    cycle op ts s = .refused .twoWriters := by
  simp [cycle, h]

/-- The converse of `cycle_cases`: what a cycle needs to execute. -/
theorem cycle_eq_next {op : Instr} {ts : List Transfer} {s t u : State} {ws : List Word}
    (hnodup : (cycleWrites op ts).Nodup) (hreads : busReads s ts = .ok ws) (hop : exec op s = .next t)
    (hloads : applyLoads s.mstat.secReg ts t = .next u) : cycle op ts s = .next (u, ws) := by
  simp [cycle, hnodup, hreads, hop, hloads]

/-- A cycle whose operation executes is refused when a transfer lacks its access: by its reads, or, if these all
succeed, by its loads. -/
theorem cycle_refused_of_not_accessible {op : Instr} {ts : List Transfer} {s t : State}
    (hnodup : (cycleWrites op ts).Nodup) (hop : exec op s = .next t) {x : Transfer} (hmem : x ∈ ts)
    (hx : x.accessible = false) : ∃ r, cycle op ts s = .refused (.noBusAccess r) := by
  cases hreads : busReads s ts with
  | error r => exact ⟨r, by simp [cycle, hnodup, hreads]⟩
  | ok ws =>
    have hload : ∃ r v, loadOf x = some (r, v) ∧ r.loadable = false := by
      by_contra! hloadable
      have hacc : x.accessible = true :=
        Transfer.accessible_iff.mpr
          ⟨fun r v h => by simpa using hloadable r v h, readable_of_busReads hreads x hmem⟩
      simp [hacc] at hx
    obtain ⟨r, v, hl, hr⟩ := hload
    obtain ⟨q, hq⟩ := applyLoads_refused (sec := s.mstat.secReg) hmem hl hr t
    exact ⟨q, by simp [cycle, hnodup, hreads, hop, hq]⟩

/-! ## Transfers that name the same access -/

/-- Two transfers that load the same register with the same value, or read the same register. -/
def Transfer.SameAccess (x y : Transfer) : Prop := loadOf x = loadOf y ∧ readOf x = readOf y

theorem applyLoads_congr {ts ts' : List Transfer} (h : List.Forall₂ Transfer.SameAccess ts ts') (sec : Bool)
    (t : State) : applyLoads sec ts t = applyLoads sec ts' t := by
  induction h generalizing t with
  | nil => rfl
  | cons hxy _ ih => simp only [applyLoads, hxy.1, ih]

theorem busReads_congr {ts ts' : List Transfer} (h : List.Forall₂ Transfer.SameAccess ts ts') (s : State) :
    busReads s ts = busReads s ts' := by
  induction h with
  | nil => rfl
  | cons hxy _ ih => simp only [busReads, hxy.2, ih]

theorem cycleWrites_congr {ts ts' : List Transfer} (h : List.Forall₂ Transfer.SameAccess ts ts') (op : Instr) :
    cycleWrites op ts = cycleWrites op ts' := by
  have hwrites : ts.flatMap transferWrites = ts'.flatMap transferWrites := by
    induction h with
    | nil => rfl
    | cons hxy _ ih => simp only [List.flatMap_cons, transferWrites, hxy.1, ih]
  rw [cycleWrites, hwrites, cycleWrites]

/-- A transfer may stand for another that names the same access, in any cycle on any state. -/
theorem cycle_congr {ts ts' : List Transfer} (h : List.Forall₂ Transfer.SameAccess ts ts') (op : Instr)
    (s : State) : cycle op ts s = cycle op ts' s := by
  simp only [cycle, cycleWrites_congr h, busReads_congr h, applyLoads_congr h]

theorem overDmd_sameAccess (x : Transfer) : (overDmd x).SameAccess x := by
  cases x <;> exact ⟨rfl, rfl⟩

theorem pmdLoad_sameAccess_dmdLoad (r : PmdReg) (v : Word) :
    (Transfer.pmdLoad r v).SameAccess (.dmdLoad (.data (pmdTarget r)) v) := ⟨rfl, rfl⟩

/-! ## One writer per place -/

theorem loadWrites_nodup (r : Reg) : (loadWrites r).Nodup := by
  cases r with
  | data r => cases r <;> decide
  | status r => cases r <;> decide
  | af => decide
  | mf => decide

theorem aluWrites_asWrites_nodup (d : AluDst) (asBit : Option Bool) : (aluWrites d ++ asWrites asBit).Nodup := by
  cases d <;> cases asBit <;> simp [aluWrites, asWrites, Loc.data]

theorem macWrites_nodup (d : MacDst) : (macWrites d).Nodup := by cases d <;> decide

theorem divWrites_nodup : divWrites.Nodup := by decide

theorem srWrites_nodup : srWrites.Nodup := by decide

/-- An instruction alone writes no place twice. -/
theorem instrWrites_nodup (i : Instr) : (instrWrites i).Nodup := by
  cases i using instr_term_cases with
  | alu fn d x y => rw [instrWrites_aluTerm fn d x y 0]; exact aluWrites_asWrites_nodup d _
  | divs y x => exact divWrites_nodup
  | divq x => exact divWrites_nodup
  | mac fn fmt d x y => rw [instrWrites_macTerm]; exact macWrites_nodup d
  | macClear d => exact macWrites_nodup d
  | satMr => decide
  | shift kind orSr hl x => rw [instrWrites_shiftTerm]; exact srWrites_nodup
  | shiftImm kind orSr hl x e => rw [instrWrites_shiftImmTerm]; exact srWrites_nodup
  | norm orSr hl x => rw [instrWrites_normTerm]; exact srWrites_nodup
  | exp mode x => cases mode <;> simp [expTerm, instrWrites, Loc.data]
  | expadj x => exact List.nodup_singleton _
  | loadData r v => exact loadWrites_nodup _
  | loadStatus r v => exact loadWrites_nodup _
  | move dst src => exact loadWrites_nodup dst

/-- A cycle with one PMD write has two writers only if the operation writes the register too. -/
theorem cycleWrites_pmdLoad_nodup {op : Instr} {r : PmdReg} (h : Loc.data (pmdTarget r) ∉ instrWrites op)
    (v : Word) : (cycleWrites op [.pmdLoad r v]).Nodup := by
  have hwrites : [Transfer.pmdLoad r v].flatMap transferWrites = [Loc.data (pmdTarget r)] := by
    cases r <;> rfl
  rw [cycleWrites, hwrites]
  exact (instrWrites_nodup op).append (List.nodup_singleton _) (List.disjoint_singleton.mpr h)

end Sys2Proof.Machine
end

section
/-! The obligations of 20_memory.md: the loads and reads over the DMD bus, and the multifunction cycle. -/

namespace Sys2Proof.Machine

/-! ## Loads, reads and moves -/

/-- Settles O50: a load replaces the selected bank alone, and there the register reads back
(`Bank.read_load_self`) and the others stay (`Bank.read_load_of_ne`). -/
theorem loadDataRegister : Obligations.LoadDataRegister := by
  unfold Obligations.LoadDataRegister
  intro r v s
  refine ⟨(s.setBank (s.bank.load r v)).advance, exec_loadimmDreg r v s, ?_⟩
  rw [State.advance_bank, State.setBank_bank]
  exact ⟨s.bank.read_load_self r v, fun q hne hmr => Bank.read_load_of_ne hne hmr v s.bank,
    s.bank.load_af r v, s.bank.load_mf r v, s.bank.load_sb r v, s.setBank_bankAt_other _,
    rfl, rfl, rfl, rfl, rfl, rfl⟩

/-- Settles O51: the two loads, one after the other, on the selected bank. -/
theorem loadMr1ExtendsSign : Obligations.LoadMr1ExtendsSign := by
  unfold Obligations.LoadMr1ExtendsSign
  intro v w s
  have hmr2 : (w.signExtend 16).setWidth 8 = w := setWidth_signExtend (by decide) w
  refine ⟨s.setBank (s.bank.load .mr1 v), s.setBank ((s.bank.load .mr1 v).load .mr2 (w.signExtend 16)), rfl,
    exec_loadimmDreg .mr1 v s, ?_⟩
  rw [State.dmdLoad_data, State.dmdRead_data, State.setBank_setBank, State.setBank_bank, State.setBank_bank]
  exact ⟨rfl, mr2OfMr1_eq v, rfl, hmr2, rfl, rfl⟩

/-- Settles O54: the source is looked at first, then the destination. -/
theorem moveWithoutAccessRefused : Obligations.MoveWithoutAccessRefused := by
  unfold Obligations.MoveWithoutAccessRefused
  intro dst src s
  refine ⟨fun hsrc => ?_, fun hsrc hdst => ?_⟩
  · have hread : s.dmdRead src = none := State.dmdRead_eq_none_iff.mpr hsrc
    simp [exec_move, execMove, hread]
  · obtain ⟨w, hread⟩ := State.dmdRead_of_readable hsrc s
    have hload : s.dmdLoad dst w = none := State.dmdLoadAt_eq_none_iff.mpr hdst
    simp [exec_move, execMove, hread, hload]

/-- Settles O56: the narrow registers are sign-extended, which keeps their value as an integer, and the word of
ASTAT holds its flags at their bits. (The name `busReads` is the model's.) -/
theorem busReads_holds : Obligations.BusReads := by
  unfold Obligations.BusReads
  intro s
  exact ⟨rfl, ⟨_, rfl, BitVec.toInt_signExtend_of_le (by omega)⟩,
    ⟨_, rfl, BitVec.toInt_signExtend_of_le (by omega)⟩,
    ⟨_, rfl, BitVec.toInt_signExtend_of_le (by omega)⟩,
    ⟨_, rfl, wordOfAstat_toNat_lt s.astat, astatOfWord_wordOfAstat s.astat⟩⟩

/-! ## Multifunction cycles -/

/-- Settles O57. -/
theorem twoWritersRefused : Obligations.TwoWritersRefused := by
  unfold Obligations.TwoWritersRefused
  intro op ts s h
  exact cycle_of_two_writers h s

/-- Settles O58: the reads are those of the start (`busReads_eq_readsAt`), the loads those of `applyLoads_spec` on
what the operation left. -/
theorem cycleReadsThenWrites : Obligations.CycleReadsThenWrites := by
  unfold Obligations.CycleReadsThenWrites
  intro op ts s t hop hnodup
  refine ⟨fun hacc => ?_, fun ⟨x, hmem, hx⟩ => cycle_refused_of_not_accessible hnodup hop hmem hx⟩
  have hload : ∀ x ∈ ts, ∀ r v, loadOf x = some (r, v) → r.loadable = true :=
    fun x hx => (Transfer.accessible_iff.mp (hacc x hx)).1
  have hread : ∀ x ∈ ts, ∀ r, readOf x = some r → r.readable = true :=
    fun x hx => (Transfer.accessible_iff.mp (hacc x hx)).2
  obtain ⟨u, hrun, hloaded, hsame⟩ := applyLoads_spec s.mstat.secReg ts t hload hnodup.of_append_right
  exact ⟨u, cycle_eq_next hnodup (busReads_eq_readsAt s ts hread) hop hrun, hloaded, hsame⟩

/-- Settles O59: a direct PMD write names the same access as the DMD load of its register. -/
theorem pmdWriteIsDmdLoad : Obligations.PmdWriteIsDmdLoad := by
  unfold Obligations.PmdWriteIsDmdLoad
  intro op r v s t hop hfree
  exact ⟨cycle_eq_next (cycleWrites_pmdLoad_nodup hfree v) rfl hop rfl,
    cycle_congr (.cons (pmdLoad_sameAccess_dmdLoad r v) .nil) op s⟩

/-- Settles O60: a transfer through the exchange unit names the same access as the DMD transfer. -/
theorem exchangeAccessIsDmdAccess : Obligations.ExchangeAccessIsDmdAccess := by
  unfold Obligations.ExchangeAccessIsDmdAccess
  intro op ts s
  have hsame : List.Forall₂ Transfer.SameAccess (ts.map overDmd) ts :=
    List.forall₂_map_left_iff.mpr (List.forall₂_same.mpr fun x _ => overDmd_sameAccess x)
  exact cycle_congr hsame op s

end Sys2Proof.Machine
end

section
/-! The fields of a word: each operand has one code (R65), and a word of a format is its fields in their places
(R66 to R70). -/

namespace Sys2Proof

/-! ## Field codes (R65) -/

@[simp] theorem aluXOf_aluXCode (x : AluX) : aluXOf (aluXCode x) = x := by cases x <;> rfl

@[simp] theorem aluXCode_aluXOf (c : BitVec 3) : aluXCode (aluXOf c) = c := by revert c; decide

@[simp] theorem aluDstOf_aluDstCode (d : AluDst) : aluDstOf (aluDstCode d) = d := by cases d <;> rfl

@[simp] theorem aluDstCode_aluDstOf (z : BitVec 1) : aluDstCode (aluDstOf z) = z := by revert z; decide

@[simp] theorem macXOf_macXCode (x : MacX) : macXOf (macXCode x) = x := by cases x <;> rfl

@[simp] theorem macXCode_macXOf (c : BitVec 3) : macXCode (macXOf c) = c := by revert c; decide

@[simp] theorem macDstOf_macDstCode (d : MacDst) : macDstOf (macDstCode d) = d := by cases d <;> rfl

@[simp] theorem macDstCode_macDstOf (z : BitVec 1) : macDstCode (macDstOf z) = z := by revert z; decide

@[simp] theorem dregOf_dregCode (r : DReg) : dregOf (dregCode r) = r := by cases r <;> rfl

@[simp] theorem dregCode_dregOf (c : BitVec 4) : dregCode (dregOf c) = c := by revert c; decide

theorem aluYOf_eq_some_iff {c : BitVec 2} {y : AluY} : aluYOf c = some y ↔ c = aluYCode y := by
  revert c
  cases y <;> decide

theorem macYOf_eq_some_iff {c : BitVec 2} {y : MacY} : macYOf c = some y ↔ c = macYCode y := by
  revert c
  cases y <;> decide

theorem shXOf_eq_some_iff {c : BitVec 3} {x : ShX} : shXOf c = some x ↔ c = shXCode x := by
  revert c
  cases x <;> decide

theorem sregOf_eq_some_iff {c : BitVec 4} {r : SReg} : sregOf c = some r ↔ c = sregCode r := by
  revert c
  cases r <;> decide

theorem dregOf_eq_iff {c : BitVec 4} {r : DReg} : dregOf c = r ↔ c = dregCode r :=
  ⟨fun h => h ▸ (dregCode_dregOf c).symm, fun h => h ▸ dregOf_dregCode r⟩

@[simp] theorem shXOf_shXCode (x : ShX) : shXOf (shXCode x) = some x := shXOf_eq_some_iff.mpr rfl

/-- Every register but AF and MF has a group and a code. -/
theorem regOf_eq_some_iff {g : BitVec 2} {c : BitVec 4} {r : Reg} :
    regOf g c = some r ↔ r.loadable = true ∧ (g, c) = regCode r := by
  have hg : g = 0b00 ∨ g = 0b01 ∨ g = 0b10 ∨ g = 0b11 := by revert g; decide
  obtain rfl | rfl | rfl | rfl := hg
  · cases r <;> simp [regOf, regCode, Reg.loadable, dregOf_eq_iff]
  · cases r <;> simp [regOf, regCode, Reg.loadable]
  · cases r <;> simp [regOf, regCode, Reg.loadable]
  · cases r <;> simp [regOf, regCode, Reg.loadable, sregOf_eq_some_iff]

/-- A Yop names a Y register of the ALU and one of the MAC, or is the constant zero of both. -/
theorem yop_cases (c : BitVec 2) : (∃ ay my, aluYOf c = some ay ∧ macYOf c = some my) ∨ c = 0b11 := by
  have hc : c = 0b00 ∨ c = 0b01 ∨ c = 0b10 ∨ c = 0b11 := by revert c; decide
  obtain rfl | rfl | rfl | rfl := hc
  · exact .inl ⟨.ay0, .my0, rfl, rfl⟩
  · exact .inl ⟨.ay1, .my1, rfl, rfl⟩
  · exact .inl ⟨.af, .mf, rfl, rfl⟩
  · exact .inr rfl

/-- What can be read over the bus can be loaded over it (R45, R56). -/
theorem Reg.loadable_of_readable {r : Reg} (h : r.readable = true) : r.loadable = true := by
  cases r with
  | data r => rfl
  | status r => rfl
  | af => cases h
  | mf => cases h

/-! ## Well-formed instructions (R57, R70) -/

theorem wellFormed_divs_iff {y : AluY} {x : AluX} : (Instr.divs y x).wellFormed = true ↔ y ≠ .ay0 := by
  simp [Instr.wellFormed, Instr.isTerm, Instr.hasWord]

theorem wellFormed_loadimmSreg_iff {r : SReg} {v : Word} :
    (Instr.loadimmSreg r v).wellFormed = true ↔ (v.truncate 14).signExtend 16 = v := by
  simp [Instr.wellFormed, Instr.isTerm, Instr.hasWord]

theorem wellFormed_move_iff {d s : Reg} :
    (Instr.move d s).wellFormed = true ↔ d.loadable = true ∧ s.readable = true := by
  simp [Instr.wellFormed, Instr.isTerm, Instr.hasWord]

/-! ## Runs of bits -/

/-- A run of bits is `a` above `b` exactly when its upper part is `a` and its lower part `b`. -/
theorem extractLsb'_eq_append_iff {k s : Nat} {w : BitVec k} (n m : Nat) {a : BitVec n} {b : BitVec m} :
    w.extractLsb' s (n + m) = a ++ b ↔ w.extractLsb' (s + m) n = a ∧ w.extractLsb' s m = b := by
  rw [← BitVec.extractLsb'_append_extractLsb'_eq_extractLsb' rfl]
  refine ⟨fun h => ?_, fun ⟨ha, hb⟩ => by rw [ha, hb]⟩
  have hhi := congrArg (BitVec.extractLsb' m n) h
  have hlo := congrArg (BitVec.extractLsb' 0 m) h
  simp only [BitVec.extractLsb'_append_eq_left, BitVec.extractLsb'_append_eq_right] at hhi hlo
  exact ⟨hhi, hlo⟩

theorem eq_append_iff (n m : Nat) {w : BitVec (n + m)} {a : BitVec n} {b : BitVec m} :
    w = a ++ b ↔ w.extractLsb' m n = a ∧ w.extractLsb' 0 m = b := by
  simpa using extractLsb'_eq_append_iff (s := 0) (w := w) n m (a := a) (b := b)

/-- A shorter run of bits inside one that is known. -/
theorem extractLsb'_of_extractLsb'_eq {k s n : Nat} {w : BitVec k} {c : BitVec n} (h : w.extractLsb' s n = c)
    (s' m : Nat) (hm : s' + m ≤ n) : w.extractLsb' (s + s') m = c.extractLsb' s' m := by
  subst h
  ext i hi
  simp [Nat.add_assoc, show s' + i < n by omega]

/-- A field that a match has read as the number `k`. -/
theorem eq_ofNat_of_toNat_eq {n k : Nat} {c : BitVec n} (h : c.toNat = k) : c = BitVec.ofNat n k := by
  rw [← h, BitVec.ofNat_toNat, BitVec.setWidth_eq]

/-! ## The formats, field by field -/

section
variable {w : ProgWord}

/-- The low byte of a type 9 or type 16 word: bits 7..4 are zero and COND is 1111 (R66, R69, R71). -/
theorem lowByte_eq_iff :
    w.extractLsb' 0 8 = 0x0F#8 ↔ w.extractLsb' 4 4 = 0 ∧ w.extractLsb' 0 4 = 0b1111 :=
  extractLsb'_eq_append_iff 4 4 (a := 0) (b := 0b1111)

/-- "Type 9" (R66). -/
theorem eq_type9_iff {z : BitVec 1} {amf : BitVec 5} {yc : BitVec 2} {xc : BitVec 3} :
    w = type9 z amf yc xc ↔
      w.extractLsb' 19 5 = 0b00100 ∧ w.extractLsb' 18 1 = z ∧ w.extractLsb' 13 5 = amf ∧
      w.extractLsb' 11 2 = yc ∧ w.extractLsb' 8 3 = xc ∧ w.extractLsb' 4 4 = 0 ∧ w.extractLsb' 0 4 = 0b1111 := by
  rw [type9, eq_append_iff 16 8, lowByte_eq_iff, extractLsb'_eq_append_iff 13 3, extractLsb'_eq_append_iff 11 2,
    extractLsb'_eq_append_iff 6 5, extractLsb'_eq_append_iff 5 1]
  simp only [and_assoc, Nat.reduceAdd]
  rfl

/-- "Type 16" (R69). -/
theorem eq_type16_iff {sf : BitVec 4} {x : ShX} :
    w = type16 sf x ↔
      w.extractLsb' 16 8 = 0x0E ∧ w.extractLsb' 15 1 = 0 ∧ w.extractLsb' 11 4 = sf ∧
      w.extractLsb' 8 3 = shXCode x ∧ w.extractLsb' 4 4 = 0 ∧ w.extractLsb' 0 4 = 0b1111 := by
  rw [type16, eq_append_iff 16 8, lowByte_eq_iff, extractLsb'_eq_append_iff 13 3, extractLsb'_eq_append_iff 9 4,
    extractLsb'_eq_append_iff 8 1]
  simp only [and_assoc, Nat.reduceAdd]
  rfl

/-- "Type 15" (R69). -/
theorem eq_type15_iff {sf : BitVec 4} {x : ShX} {e : BitVec 8} :
    w = type15 sf x e ↔
      w.extractLsb' 16 8 = 0x0F ∧ w.extractLsb' 15 1 = 0 ∧ w.extractLsb' 11 4 = sf ∧
      w.extractLsb' 8 3 = shXCode x ∧ w.extractLsb' 0 8 = e := by
  rw [type15, eq_append_iff 16 8, extractLsb'_eq_append_iff 13 3, extractLsb'_eq_append_iff 9 4,
    extractLsb'_eq_append_iff 8 1]
  simp only [and_assoc, Nat.reduceAdd]
  rfl

/-- "Type 24" (R67). -/
theorem eq_encode_divs_iff {y : AluY} {x : AluX} :
    w = encode (.divs y x) ↔
      w.extractLsb' 16 8 = 0x60 ∧ w.extractLsb' 13 3 = 0 ∧ w.extractLsb' 11 2 = aluYCode y ∧
      w.extractLsb' 8 3 = aluXCode x ∧ w.extractLsb' 0 8 = 0 := by
  rw [encode, eq_append_iff 16 8, extractLsb'_eq_append_iff 13 3, extractLsb'_eq_append_iff 11 2,
    extractLsb'_eq_append_iff 8 3]
  simp only [and_assoc, Nat.reduceAdd]
  rfl

/-- "Type 23" (R67). -/
theorem eq_encode_divq_iff {x : AluX} :
    w = encode (.divq x) ↔
      w.extractLsb' 16 8 = 0x71 ∧ w.extractLsb' 11 5 = 0 ∧ w.extractLsb' 8 3 = aluXCode x ∧
      w.extractLsb' 0 8 = 0 := by
  rw [encode, eq_append_iff 16 8, extractLsb'_eq_append_iff 13 3, extractLsb'_eq_append_iff 8 5]
  simp only [and_assoc, Nat.reduceAdd]
  rfl

/-- "Type 25", the single word of R68. -/
theorem eq_encode_satMr_iff :
    w = encode .satMr ↔ w.extractLsb' 16 8 = 0x05 ∧ w.extractLsb' 0 16 = 0 :=
  eq_append_iff 8 16 (a := 0x05) (b := 0)

/-- "Type 6" (R70). -/
theorem eq_encode_loadimmDreg_iff {r : DReg} {v : Word} :
    w = encode (.loadimmDreg r v) ↔
      w.extractLsb' 20 4 = 0b0100 ∧ w.extractLsb' 4 16 = v ∧ w.extractLsb' 0 4 = dregCode r := by
  rw [encode, eq_append_iff 20 4, extractLsb'_eq_append_iff 4 16]
  simp only [and_assoc, Nat.reduceAdd]
  rfl

/-- "Type 7" (R70). -/
theorem eq_encode_loadimmSreg_iff {r : SReg} {v : Word} :
    w = encode (.loadimmSreg r v) ↔
      w.extractLsb' 18 6 = 0b001111 ∧ w.extractLsb' 4 14 = v.truncate 14 ∧ w.extractLsb' 0 4 = sregCode r := by
  rw [encode, eq_append_iff 20 4, extractLsb'_eq_append_iff 6 14]
  simp only [and_assoc, Nat.reduceAdd]
  rfl

/-- "Type 17" (R70). -/
theorem eq_encode_move_iff {d s : Reg} :
    w = encode (.move d s) ↔
      w.extractLsb' 16 8 = 0x0D ∧ w.extractLsb' 12 4 = 0 ∧
      (w.extractLsb' 10 2, w.extractLsb' 4 4) = regCode d ∧
      (w.extractLsb' 8 2, w.extractLsb' 0 4) = regCode s := by
  rw [encode, eq_append_iff 20 4, extractLsb'_eq_append_iff 16 4, extractLsb'_eq_append_iff 14 2,
    extractLsb'_eq_append_iff 12 2, show 0x0D0#12 = 0x0D#8 ++ 0#4 from rfl, extractLsb'_eq_append_iff 8 4]
  simp only [and_assoc, Nat.reduceAdd, Prod.ext_iff]
  tauto

end

end Sys2Proof
end

section
/-! The decoder by formats: a word's leading bits say which format decoder reads it, and what each of them accepts
it has read right. -/

namespace Sys2Proof

/-! ## The format of a word, by its leading bits -/

section
variable {w : ProgWord}

/-- The leading bits that the decoder looks at before the upper byte are bits of that byte. -/
theorem leading_of_byte {b : BitVec 8} (hb : w.extractLsb' 16 8 = b) :
    w.extractLsb' 20 4 = b.extractLsb' 4 4 ∧ w.extractLsb' 18 6 = b.extractLsb' 2 6 ∧
      w.extractLsb' 19 5 = b.extractLsb' 3 5 :=
  ⟨extractLsb'_of_extractLsb'_eq hb 4 4 (by decide), extractLsb'_of_extractLsb'_eq hb 2 6 (by decide),
    extractLsb'_of_extractLsb'_eq hb 3 5 (by decide)⟩

theorem decode_eq_decodeType6 (h : w.extractLsb' 20 4 = 0b0100) : decode w = decodeType6 w := if_pos h

theorem decode_eq_decodeType7 (h : w.extractLsb' 18 6 = 0b001111) : decode w = decodeType7 w := by
  have h4 : w.extractLsb' 20 4 = 0b0011 := extractLsb'_of_extractLsb'_eq h 2 4 (by decide)
  rw [decode, if_neg (by rw [h4]; decide), if_pos h]

theorem decode_eq_decodeType9 (h : w.extractLsb' 19 5 = 0b00100) : decode w = decodeType9 w := by
  have h4 : w.extractLsb' 20 4 = 0b0010 := extractLsb'_of_extractLsb'_eq h 1 4 (by decide)
  have h6 : w.extractLsb' 18 6 ≠ 0b001111 := fun h7 =>
    absurd (h.symm.trans (extractLsb'_of_extractLsb'_eq h7 1 5 (by decide))) (by decide)
  rw [decode, if_neg (by rw [h4]; decide), if_neg h6, if_pos h]

theorem decode_eq_decodeType17 (hb : w.extractLsb' 16 8 = 0x0D) (hz : w.extractLsb' 12 4 = 0) :
    decode w = decodeType17 w := by
  obtain ⟨h4, h6, h5⟩ := leading_of_byte hb
  simp [decode, hb, h4, h6, h5, hz]

theorem decode_eq_decodeType16 (hb : w.extractLsb' 16 8 = 0x0E) : decode w = decodeType16 w := by
  obtain ⟨h4, h6, h5⟩ := leading_of_byte hb
  simp [decode, hb, h4, h6, h5]

theorem decode_eq_decodeType15 (hb : w.extractLsb' 16 8 = 0x0F) : decode w = decodeType15 w := by
  obtain ⟨h4, h6, h5⟩ := leading_of_byte hb
  simp [decode, hb, h4, h6, h5]

theorem decode_eq_decodeType24 (hb : w.extractLsb' 16 8 = 0x60) : decode w = decodeType24 w := by
  obtain ⟨h4, h6, h5⟩ := leading_of_byte hb
  simp [decode, hb, h4, h6, h5]

theorem decode_eq_decodeType23 (hb : w.extractLsb' 16 8 = 0x71) : decode w = decodeType23 w := by
  obtain ⟨h4, h6, h5⟩ := leading_of_byte hb
  simp [decode, hb, h4, h6, h5]

/-! ## Conditional forms -/

theorem decodeType9_of_cond (hc : w.extractLsb' 0 4 ≠ 0b1111) :
    decodeType9 w = .error (if w.extractLsb' 4 4 = 0 then .conditionalForm else .notInSource) := by
  by_cases h4 : w.extractLsb' 4 4 = 0
  · rw [decodeType9, if_neg (not_not.mpr h4), if_pos hc, if_pos h4]
  · rw [decodeType9, if_pos h4, if_neg h4]

theorem decodeType16_of_cond (hc : w.extractLsb' 0 4 ≠ 0b1111) :
    decodeType16 w =
      .error (if w.extractLsb' 15 1 = 0 ∧ w.extractLsb' 4 4 = 0 then .conditionalForm else .notInSource) := by
  by_cases h15 : w.extractLsb' 15 1 = 0
  · by_cases h4 : w.extractLsb' 4 4 = 0
    · rw [decodeType16, if_neg (not_not.mpr h15), if_neg (not_not.mpr h4), if_pos hc, if_pos ⟨h15, h4⟩]
    · rw [decodeType16, if_neg (not_not.mpr h15), if_pos h4, if_neg fun h => h4 h.2]
  · rw [decodeType16, if_pos h15, if_neg fun h => h15 h.1]

end

/-! ## What a format decoder accepts it has read right -/

/-- `w` is the word of the well-formed instruction `i`. -/
def Spells (i : Instr) (w : ProgWord) : Prop := i.wellFormed = true ∧ w = encode i

/-- A row with a guard on an operand field has answered, so the guard holds. -/
theorem ok_of_ite_ok {c : Prop} [Decidable c] {i j : Instr} {e : DecodeRefusal}
    (h : (if c then .ok i else .error e) = Except.ok j) : c ∧ i = j := by
  split_ifs at h with hc
  exact ⟨hc, by cases h; rfl⟩

/-- The rows of R66 with a Y register. -/
theorem decodeAmf_spells {z : BitVec 1} {amf : BitVec 5} {yc : BitVec 2} {ay : AluY} {my : MacY} {xc : BitVec 3}
    {i : Instr} (hay : yc = aluYCode ay) (hmy : yc = macYCode my) (h : decodeAmf z amf yc ay my xc = .ok i) :
    Spells i (type9 z amf yc xc) := by
  have hlt : amf.toNat < 32 := amf.isLt
  have mac (k : Nat) (hk : amf.toNat = k) :
      type9 z amf yc xc = macWord (.ofNat 5 k) (macDstOf z) (macXOf xc) my := by
    simp [macWord, ← hmy, ← eq_ofNat_of_toNat_eq hk]
  have alu (k : Nat) (hk : amf.toNat = k) :
      type9 z amf yc xc = aluWord (.ofNat 5 k) (aluDstOf z) (aluXOf xc) ay := by
    simp [aluWord, ← hay, ← eq_ofNat_of_toNat_eq hk]
  have yOnly (k : Nat) (hk : amf.toNat = k) (hx : xc = 0) :
      type9 z amf yc xc = type9 (aluDstCode (aluDstOf z)) (.ofNat 5 k) (aluYCode ay) 0 := by
    simp [hx, ← hay, ← eq_ofNat_of_toNat_eq hk]
  have xOnly (k : Nat) (hk : amf.toNat = k) (hy : yc = 0) :
      type9 z amf yc xc = type9 (aluDstCode (aluDstOf z)) (.ofNat 5 k) 0 (aluXCode (aluXOf xc)) := by
    simp [hy, ← eq_ofNat_of_toNat_eq hk]
  unfold decodeAmf at h
  dsimp only at h
  split at h
  -- AMF = 00000 is no operation.
  case h_1 => cases h
  -- PASSY, INCY, NOTY, NEGY and DECY.
  case h_17 | h_18 | h_21 | h_22 | h_25 =>
    obtain ⟨hx, rfl⟩ := ok_of_ite_ok h
    exact ⟨rfl, yOnly _ ‹_› hx⟩
  -- NOTX, and ABSX by AMF = 11111.
  case h_28 =>
    obtain ⟨hy, rfl⟩ := ok_of_ite_ok h
    exact ⟨rfl, xOnly _ ‹_› hy⟩
  case h_32 =>
    obtain ⟨hy, rfl⟩ := ok_of_ite_ok h
    exact ⟨rfl, xOnly 31 (by grind) hy⟩
  -- The ALU functions of two operands.
  case h_19 | h_20 | h_23 | h_24 | h_26 | h_27 | h_29 | h_30 | h_31 =>
    cases h
    exact ⟨rfl, alu _ ‹_›⟩
  -- The fifteen MAC functions.
  all_goals
    cases h
    exact ⟨rfl, mac _ ‹_›⟩

/-- The rows of R66 with Yop = 11: the two clears, PASSX and NEGX. -/
theorem decodeAmfZero_spells {z : BitVec 1} {amf : BitVec 5} {xc : BitVec 3} {i : Instr}
    (h : decodeAmfZero z amf xc = .ok i) : Spells i (type9 z amf 0b11 xc) := by
  unfold decodeAmfZero at h
  split at h
  case h_1 => cases h
  case h_2 hk | h_3 hk =>
    obtain ⟨rfl, rfl⟩ := ok_of_ite_ok h
    exact ⟨rfl, by simp [encode, eq_ofNat_of_toNat_eq hk]⟩
  case h_4 hk | h_5 hk =>
    cases h
    exact ⟨rfl, by simp [encode, eq_ofNat_of_toNat_eq hk]⟩
  case h_6 => cases h

section
variable {w : ProgWord} {i : Instr}

theorem decodeType9_spells (hw : w.extractLsb' 19 5 = 0b00100) (h : decodeType9 w = .ok i) : Spells i w := by
  unfold decodeType9 at h
  dsimp only at h
  split_ifs at h with h4 hc
  rw [not_not] at h4 hc
  rw [eq_type9_iff.mpr ⟨hw, rfl, rfl, rfl, rfl, h4, hc⟩]
  obtain ⟨ay, my, hay, hmy⟩ | hyc := yop_cases (w.extractLsb' 11 2)
  · rw [hay, hmy] at h
    exact decodeAmf_spells (aluYOf_eq_some_iff.mp hay) (macYOf_eq_some_iff.mp hmy) h
  · rw [hyc] at h ⊢
    exact decodeAmfZero_spells h

theorem decodeType16_spells (hw : w.extractLsb' 16 8 = 0x0E) (h : decodeType16 w = .ok i) : Spells i w := by
  unfold decodeType16 at h
  split_ifs at h with h15 h4 hc
  rw [not_not] at h15 h4 hc
  cases hx : shXOf (w.extractLsb' 8 3) with
  | none => simp [hx] at h
  | some x =>
    have word (sf : Nat) (hsf : (w.extractLsb' 11 4).toNat = sf) : w = type16 (.ofNat 4 sf) x :=
      eq_type16_iff.mpr ⟨hw, h15, eq_ofNat_of_toNat_eq hsf, shXOf_eq_some_iff.mp hx, h4, hc⟩
    have hlt : (w.extractLsb' 11 4).toNat < 16 := (w.extractLsb' 11 4).isLt
    simp only [hx] at h
    split at h <;> cases h
    case h_16 => exact ⟨rfl, word 15 (by grind)⟩
    all_goals exact ⟨rfl, word _ ‹_›⟩

theorem decodeType15_spells (hw : w.extractLsb' 16 8 = 0x0F) (h : decodeType15 w = .ok i) : Spells i w := by
  unfold decodeType15 at h
  split_ifs at h with h15
  rw [not_not] at h15
  cases hx : shXOf (w.extractLsb' 8 3) with
  | none => simp [hx] at h
  | some x =>
    have word (sf : Nat) (hsf : (w.extractLsb' 11 4).toNat = sf) :
        w = type15 (.ofNat 4 sf) x (w.extractLsb' 0 8) :=
      eq_type15_iff.mpr ⟨hw, h15, eq_ofNat_of_toNat_eq hsf, shXOf_eq_some_iff.mp hx, rfl⟩
    simp only [hx] at h
    split at h <;> cases h <;> exact ⟨rfl, word _ ‹_›⟩

theorem decodeType24_spells (hw : w.extractLsb' 16 8 = 0x60) (h : decodeType24 w = .ok i) : Spells i w := by
  unfold decodeType24 at h
  split_ifs at h with hz
  rw [not_or, not_not, not_not] at hz
  obtain ⟨h13, h0⟩ := hz
  have word {y : AluY} (hy : w.extractLsb' 11 2 = aluYCode y) :
      w = encode (.divs y (aluXOf (w.extractLsb' 8 3))) :=
    eq_encode_divs_iff.mpr ⟨hw, h13, hy, (aluXCode_aluXOf _).symm, h0⟩
  split at h
  case h_1 hy => cases h; exact ⟨rfl, word (eq_ofNat_of_toNat_eq hy)⟩
  case h_2 hy => cases h; exact ⟨rfl, word (eq_ofNat_of_toNat_eq hy)⟩
  case h_3 => cases h

theorem decodeType23_spells (hw : w.extractLsb' 16 8 = 0x71) (h : decodeType23 w = .ok i) : Spells i w := by
  unfold decodeType23 at h
  split_ifs at h with hz
  rw [not_or, not_not, not_not] at hz
  obtain ⟨h11, h0⟩ := hz
  cases h
  exact ⟨rfl, eq_encode_divq_iff.mpr ⟨hw, h11, (aluXCode_aluXOf _).symm, h0⟩⟩

theorem decodeType6_spells (hw : w.extractLsb' 20 4 = 0b0100) (h : decodeType6 w = .ok i) : Spells i w := by
  cases h
  exact ⟨rfl, eq_encode_loadimmDreg_iff.mpr ⟨hw, rfl, (dregCode_dregOf _).symm⟩⟩

/-- The constant read from fourteen bits is the sign extension of fourteen bits, as `hasWord` asks. -/
theorem decodeType7_spells (hw : w.extractLsb' 18 6 = 0b001111) (h : decodeType7 w = .ok i) : Spells i w := by
  unfold decodeType7 at h
  have hv := Machine.setWidth_signExtend (by decide : 14 ≤ 16) (w.extractLsb' 4 14)
  cases hr : sregOf (w.extractLsb' 0 4) with
  | none => simp [hr] at h
  | some r =>
    simp only [hr] at h
    cases h
    exact ⟨wellFormed_loadimmSreg_iff.mpr (congrArg (BitVec.signExtend 16) hv),
      eq_encode_loadimmSreg_iff.mpr ⟨hw, hv.symm, sregOf_eq_some_iff.mp hr⟩⟩

theorem decodeType17_spells (hw : w.extractLsb' 16 8 = 0x0D) (hz : w.extractLsb' 12 4 = 0)
    (h : decodeType17 w = .ok i) : Spells i w := by
  unfold decodeType17 at h
  split at h
  case h_1 d s hd hs =>
    split_ifs at h with hread
    cases h
    obtain ⟨hload, hdc⟩ := regOf_eq_some_iff.mp hd
    obtain ⟨-, hsc⟩ := regOf_eq_some_iff.mp hs
    exact ⟨wellFormed_move_iff.mpr ⟨hload, hread⟩, eq_encode_move_iff.mpr ⟨hw, hz, hdc, hsc⟩⟩
  case h_2 => cases h

/-- A word that the decoder accepts is the word of the well-formed instruction it reads. -/
theorem decode_spells (h : decode w = .ok i) : Spells i w := by
  unfold decode at h
  split at h
  case isTrue h6 => exact decodeType6_spells h6 h
  split at h
  case isTrue h7 => exact decodeType7_spells h7 h
  split at h
  case isTrue h9 => exact decodeType9_spells h9 h
  split at h
  case h_1 hb =>
    obtain ⟨hz, rfl⟩ := ok_of_ite_ok h
    exact ⟨rfl, eq_encode_satMr_iff.mpr ⟨eq_ofNat_of_toNat_eq hb, hz⟩⟩
  case h_2 hb =>
    split_ifs at h with hz
    exact decodeType17_spells (eq_ofNat_of_toNat_eq hb) hz h
  case h_3 hb => exact decodeType16_spells (eq_ofNat_of_toNat_eq hb) h
  case h_4 hb => exact decodeType15_spells (eq_ofNat_of_toNat_eq hb) h
  case h_5 hb => exact decodeType24_spells (eq_ofNat_of_toNat_eq hb) h
  case h_6 hb => exact decodeType23_spells (eq_ofNat_of_toNat_eq hb) h
  case h_7 => cases h

end

end Sys2Proof
end

section
/-! The decoder on the encoder's words, term by term (R56): each format decoder reads back the fields that the
word was made of. -/

namespace Sys2Proof

/-! ## ALU and MAC -/

theorem decode_type9_of_yReg {yc : BitVec 2} {ay : AluY} {my : MacY} (hay : aluYOf yc = some ay)
    (hmy : macYOf yc = some my) (z : BitVec 1) (amf : BitVec 5) (xc : BitVec 3) :
    decode (type9 z amf yc xc) = decodeAmf z amf yc ay my xc := by
  have fields := eq_type9_iff.mp (Eq.refl (type9 z amf yc xc))
  simp [decode_eq_decodeType9, decodeType9, fields, hay, hmy]

theorem decode_type9_of_yZero {yc : BitVec 2} (hay : aluYOf yc = none) (z : BitVec 1) (amf : BitVec 5)
    (xc : BitVec 3) : decode (type9 z amf yc xc) = decodeAmfZero z amf xc := by
  have fields := eq_type9_iff.mp (Eq.refl (type9 z amf yc xc))
  simp [decode_eq_decodeType9, decodeType9, fields, hay]

theorem exists_macYOf_aluYCode (y : AluY) : ∃ my, macYOf (aluYCode y) = some my := by
  cases y <;> exact ⟨_, rfl⟩

theorem exists_aluYOf_macYCode (y : MacY) : ∃ ay, aluYOf (macYCode y) = some ay := by
  cases y <;> exact ⟨_, rfl⟩

theorem decode_encode_aluTerm (fn : AluFn) (d : AluDst) (x : AluX) (y : AluY) :
    decode (encode (aluTerm fn d x y)) = .ok (aluTerm fn d x y) := by
  obtain ⟨my, hmy⟩ := exists_macYOf_aluYCode y
  cases fn
  -- Coded with the constant zero as Y.
  case clear | passx | negx =>
    exact (decode_type9_of_yZero rfl _ _ _).trans (by simp [decodeAmfZero, aluTerm])
  -- Coded with the unused Yop zero, which names AY0 and MY0.
  case absx | notx =>
    exact (decode_type9_of_yReg (ay := .ay0) (my := .my0) rfl rfl _ _ _).trans (by simp [decodeAmf, aluTerm])
  all_goals
    exact (decode_type9_of_yReg (aluYOf_eq_some_iff.mpr rfl) hmy _ _ _).trans (by simp [decodeAmf, aluTerm])

theorem decode_encode_macTerm (fn : MacFn) (fmt : MacFmt) (d : MacDst) (x : MacX) (y : MacY) :
    decode (encode (macTerm fn fmt d x y)) = .ok (macTerm fn fmt d x y) := by
  obtain ⟨ay, hay⟩ := exists_aluYOf_macYCode y
  cases fn <;> cases fmt <;>
    exact (decode_type9_of_yReg hay (macYOf_eq_some_iff.mpr rfl) _ _ _).trans (by simp [decodeAmf, macTerm])

theorem decode_encode_macClear (d : MacDst) : decode (encode (.macClear d)) = .ok (.macClear d) :=
  (decode_type9_of_yZero rfl _ _ _).trans (by simp [decodeAmfZero])

theorem decode_encode_divs {y : AluY} (hy : y ≠ .ay0) (x : AluX) :
    decode (encode (.divs y x)) = .ok (.divs y x) := by
  have fields := eq_encode_divs_iff.mp (Eq.refl (encode (.divs y x)))
  cases y with
  | ay0 => exact absurd rfl hy
  | ay1 => simp [decode_eq_decodeType24, decodeType24, fields, aluYCode]
  | af => simp [decode_eq_decodeType24, decodeType24, fields, aluYCode]

theorem decode_encode_divq (x : AluX) : decode (encode (.divq x)) = .ok (.divq x) := by
  have fields := eq_encode_divq_iff.mp (Eq.refl (encode (.divq x)))
  simp [decode_eq_decodeType23, decodeType23, fields]

/-! ## Shifter -/

theorem decode_encode_shiftTerm (kind : ShiftKind) (orSr : Bool) (hl : HiLo) (x : ShX) :
    decode (encode (shiftTerm kind orSr hl x)) = .ok (shiftTerm kind orSr hl x) := by
  have fields (sf : BitVec 4) := eq_type16_iff.mp (Eq.refl (type16 sf x))
  cases kind <;> cases hl <;> cases orSr <;> simp [shiftTerm, encode, decode_eq_decodeType16, decodeType16, fields]

theorem decode_encode_normTerm (orSr : Bool) (hl : HiLo) (x : ShX) :
    decode (encode (normTerm orSr hl x)) = .ok (normTerm orSr hl x) := by
  have fields (sf : BitVec 4) := eq_type16_iff.mp (Eq.refl (type16 sf x))
  cases hl <;> cases orSr <;> simp [normTerm, encode, decode_eq_decodeType16, decodeType16, fields]

theorem decode_encode_expTerm (mode : ExpMode) (x : ShX) :
    decode (encode (expTerm mode x)) = .ok (expTerm mode x) := by
  have fields (sf : BitVec 4) := eq_type16_iff.mp (Eq.refl (type16 sf x))
  cases mode <;> simp [expTerm, encode, decode_eq_decodeType16, decodeType16, fields]

theorem decode_encode_expadj (x : ShX) : decode (encode (.expadj x)) = .ok (.expadj x) := by
  have fields (sf : BitVec 4) := eq_type16_iff.mp (Eq.refl (type16 sf x))
  simp [encode, decode_eq_decodeType16, decodeType16, fields]

theorem decode_encode_shiftImmTerm (kind : ShiftKind) (orSr : Bool) (hl : HiLo) (x : ShX) (e : BitVec 8) :
    decode (encode (shiftImmTerm kind orSr hl x e)) = .ok (shiftImmTerm kind orSr hl x e) := by
  have fields (sf : BitVec 4) := eq_type15_iff.mp (Eq.refl (type15 sf x e))
  cases kind <;> cases hl <;> cases orSr <;>
    simp [shiftImmTerm, encode, decode_eq_decodeType15, decodeType15, fields]

/-! ## Loads and moves -/

theorem decode_encode_loadimmDreg (r : DReg) (v : Word) :
    decode (encode (.loadimmDreg r v)) = .ok (.loadimmDreg r v) := by
  have fields := eq_encode_loadimmDreg_iff.mp (Eq.refl (encode (.loadimmDreg r v)))
  simp [decode_eq_decodeType6, decodeType6, fields]

/-- A constant that is the sign extension of fourteen bits survives its field (R70). -/
theorem decode_encode_loadimmSreg {v : Word} (hv : (v.truncate 14).signExtend 16 = v) (r : SReg) :
    decode (encode (.loadimmSreg r v)) = .ok (.loadimmSreg r v) := by
  obtain ⟨htop, hval, hr⟩ := eq_encode_loadimmSreg_iff.mp (Eq.refl (encode (.loadimmSreg r v)))
  rw [decode_eq_decodeType7 htop, decodeType7, hval, hv, sregOf_eq_some_iff.mpr hr]

theorem decode_encode_move {d s : Reg} (hd : d.loadable = true) (hs : s.readable = true) :
    decode (encode (.move d s)) = .ok (.move d s) := by
  obtain ⟨hb, hz, hdc, hsc⟩ := eq_encode_move_iff.mp (Eq.refl (encode (.move d s)))
  rw [decode_eq_decodeType17 hb hz, decodeType17, regOf_eq_some_iff.mpr ⟨hd, hdc⟩,
    regOf_eq_some_iff.mpr ⟨Reg.loadable_of_readable hs, hsc⟩]
  exact if_pos hs

/-! ## Every instruction -/

/-- Decoding the word of a well-formed instruction gives the instruction back. -/
theorem decode_encode {i : Instr} (h : i.wellFormed = true) : decode (encode i) = .ok i := by
  cases i using Machine.instr_term_cases with
  | alu fn d x y => exact decode_encode_aluTerm fn d x y
  | divs y x => exact decode_encode_divs (wellFormed_divs_iff.mp h) x
  | divq x => exact decode_encode_divq x
  | mac fn fmt d x y => exact decode_encode_macTerm fn fmt d x y
  | macClear d => exact decode_encode_macClear d
  | satMr => rfl
  | shift kind orSr hl x => exact decode_encode_shiftTerm kind orSr hl x
  | shiftImm kind orSr hl x e => exact decode_encode_shiftImmTerm kind orSr hl x e
  | norm orSr hl x => exact decode_encode_normTerm orSr hl x
  | exp mode x => exact decode_encode_expTerm mode x
  | expadj x => exact decode_encode_expadj x
  | loadData r v => exact decode_encode_loadimmDreg r v
  | loadStatus r v => exact decode_encode_loadimmSreg (wellFormed_loadimmSreg_iff.mp h) r
  | move d s =>
    obtain ⟨hd, hs⟩ := wellFormed_move_iff.mp h
    exact decode_encode_move hd hs

end Sys2Proof
end

section
/-! The obligations of 30_encoding.md: the words, what the step does with one that is no instruction, and which
terms execute. -/

namespace Sys2Proof.Machine

/-! ## Words -/

/-- Settles O1: each term's word decodes to it (`decode_encode`). -/
theorem decodeOfEncode : Obligations.DecodeOfEncode := by
  unfold Obligations.DecodeOfEncode
  exact fun _ => decode_encode

/-- Settles O2: what each format decoder accepts it has read right (`decode_spells`). -/
theorem encodeOfDecode : Obligations.EncodeOfDecode := by
  unfold Obligations.EncodeOfDecode
  intro w i h
  obtain ⟨hwf, hw⟩ := decode_spells h
  exact ⟨hwf, hw.symm⟩

/-- Settles O3, by evaluating the decoder on each word. -/
theorem specWordsDecode : Obligations.SpecWordsDecode := by
  unfold Obligations.SpecWordsDecode
  exact ⟨rfl, rfl, rfl, rfl, rfl, rfl, rfl, rfl⟩

/-- Settles O4: both formats look at COND after the bits fixed at zero and before every other field. -/
theorem conditionalFormsRefused : Obligations.ConditionalFormsRefused := by
  unfold Obligations.ConditionalFormsRefused
  rintro w (h9 | h16) hc
  · rw [decode_eq_decodeType9 h9, decodeType9_of_cond hc]
    exact ⟨⟨_, rfl⟩, fun h4 _ => by rw [if_pos h4]⟩
  · rw [decode_eq_decodeType16 h16, decodeType16_of_cond hc]
    exact ⟨⟨_, rfl⟩, fun h4 h15 => by rw [if_pos ⟨h15 h16, h4⟩]⟩

/-- Settles O7. -/
theorem stepRefusesUndecodable : Obligations.StepRefusesUndecodable := by
  unfold Obligations.StepRefusesUndecodable
  intro s w why hf hd
  simp [step, State.fetch, hf, hd]

/-! ## Terms -/

theorem execDivs_of_ne {y : AluY} (hy : y ≠ .ay0) (x : AluX) (s : State) :
    execDivs y x s = .next (s.divStep (divsOut (s.bank.aluX x) (s.bank.aluY y))) := if_neg hy

theorem execMove_of_access {dst src : Reg} (hd : dst.loadable = true) (hs : src.readable = true) (s : State) :
    ∃ t, execMove dst src s = .next t := by
  obtain ⟨w, hw⟩ := State.dmdRead_of_readable hs s
  obtain ⟨t, ht⟩ : ∃ t, s.dmdLoad dst w = some t := State.dmdLoadAt_of_loadable hd s.mstat.secReg w s
  exact ⟨t.advance, by simp [execMove, hw, ht]⟩

/-- NORM runs for every SE whose negation is a control code (R181). -/
theorem State.normStep_of_se_ne {s : State} (h : s.bank.se ≠ 0x80) (orSr : Bool) (hl : HiLo) (x : ShX) :
    ∃ t, s.normStep orSr hl x = .next t := by
  have hse : s.bank.se.toInt ≠ -128 := fun hv => h (BitVec.eq_of_toInt_eq hv)
  exact ⟨_, if_neg hse⟩

theorem State.normStep_of_se_eq {s : State} (h : s.bank.se = 0x80) (orSr : Bool) (hl : HiLo) (x : ShX) :
    s.normStep orSr hl x = .refused .normControlCode := by
  have hse : s.bank.se.toInt = -128 := by rw [h]; rfl
  exact if_pos hse

/-- Every term executes, NORM at SE = −128 apart. -/
theorem exec_of_isTerm {i : Instr} {s : State} (h : i.isTerm = true)
    (hnorm : s.bank.se ≠ 0x80 ∨ ∀ orSr hl x, i ≠ normTerm orSr hl x) : ∃ t, exec i s = .next t := by
  cases i using instr_term_cases with
  | alu fn d x y => exact ⟨_, exec_aluTerm fn d x y s⟩
  | divs y x => exact ⟨_, execDivs_of_ne (by simpa [Instr.isTerm] using h) x s⟩
  | divq x => exact ⟨_, exec_divq x s⟩
  | mac fn fmt d x y => exact ⟨_, exec_macTerm fn fmt d x y s⟩
  | macClear d => exact ⟨_, exec_macClear d s⟩
  | satMr => exact ⟨_, exec_satMr s⟩
  | shift kind orSr hl x => exact ⟨_, exec_shiftTerm kind orSr hl x s⟩
  | shiftImm kind orSr hl x e => exact ⟨_, exec_shiftImmTerm kind orSr hl x e s⟩
  | norm orSr hl x =>
    rw [exec_normTerm]
    exact State.normStep_of_se_ne (hnorm.resolve_right fun hne => hne orSr hl x rfl) orSr hl x
  | exp mode x =>
    cases mode with
    | hi => exact ⟨_, exec_expHi x s⟩
    | hix => exact ⟨_, exec_expHix x s⟩
    | lo => exact ⟨_, exec_expLo x s⟩
  | expadj x => exact ⟨_, exec_expadj x s⟩
  | loadData r v => exact ⟨_, exec_loadimmDreg r v s⟩
  | loadStatus r v => exact ⟨_, exec_loadimmSreg r v s⟩
  | move dst src =>
    obtain ⟨hd, hs⟩ : dst.loadable = true ∧ src.readable = true := by simpa [Instr.isTerm] using h
    exact execMove_of_access hd hs s

/-- Settles O11: every shared step answers (`exec_of_isTerm`), and NORM at SE = −128 is its one refusal. -/
theorem everyTermExecutes : Obligations.EveryTermExecutes := by
  unfold Obligations.EveryTermExecutes
  refine fun i s h => ⟨exec_of_isTerm h, ?_⟩
  rintro hse orSr hl x rfl
  rw [exec_normTerm]
  exact State.normStep_of_se_eq hse orSr hl x

end Sys2Proof.Machine
end

section
/-! The adder against the integers: sums and differences of 16-bit words with a carry in, and what ABS makes of
them. -/

namespace Sys2Proof.Machine

/-! ## A word as a signed and as an unsigned integer -/

theorem word_toInt_cases (w : Word) :
    w.toNat < 32768 ∧ w.toInt = w.toNat ∨ 32768 ≤ w.toNat ∧ w.toInt = w.toNat - 65536 := by
  rw [BitVec.toInt_eq_toNat_cond]
  split
  · left; omega
  · right; omega

theorem word_toInt_not (w : Word) : (~~~w).toInt = -w.toInt - 1 := by
  have hw := word_toInt_cases w
  have hn := word_toInt_cases (~~~w)
  rw [BitVec.toNat_not] at hn
  omega

theorem ofInt_sub (n : Nat) (i j : Int) :
    BitVec.ofInt n (i - j) = BitVec.ofInt n i - BitVec.ofInt n j := by
  rw [Int.sub_eq_add_neg, BitVec.ofInt_add, BitVec.ofInt_neg, BitVec.sub_eq_add_neg]

theorem ofInt_toNat {n : Nat} (w : BitVec n) : BitVec.ofInt n w.toNat = w := by
  rw [BitVec.ofInt_natCast, BitVec.ofNat_toNat, BitVec.setWidth_eq]

/-! ## Sums -/

/-- The adder's overflow, the exclusive-OR of the carries out of bits 15 and 14, is the signed overflow (R82). -/
theorem add16_v (a b : Word) (cin : Bool) :
    (add16 a b cin).v = outside16 (a.toInt + b.toInt + cin.toNat) := by
  have ha := word_toInt_cases a
  have hb := word_toInt_cases b
  have hcin := cin.toNat_le
  rw [Bool.eq_iff_iff]
  simp only [add16, outside16, bne_iff_ne, ne_eq, decide_eq_decide, decide_eq_true_eq]
  omega

theorem add16_eq (a b : Word) (cin : Bool) :
    add16 a b cin =
      ⟨BitVec.ofNat 16 (a.toNat + b.toNat + cin.toNat), decide (65536 ≤ a.toNat + b.toNat + cin.toNat),
        outside16 (a.toInt + b.toInt + cin.toNat)⟩ := by
  rw [← add16_v]
  rfl

/-- Addition without a carry in (R88). -/
theorem add16_false (a b : Word) :
    add16 a b false =
      ⟨a + b, decide (65536 ≤ a.toNat + b.toNat), outside16 (a.toInt + b.toInt)⟩ := by
  rw [add16_eq, BitVec.add_def]
  simp

/-! ## Differences -/

/-- With the complement of an operand the adder subtracts it: a carry is no borrow (D4). -/
theorem add16_not (a b : Word) (cin : Bool) :
    add16 a (~~~b) cin =
      ⟨BitVec.ofInt 16 (a.toNat - b.toNat + cin.toNat - 1), decide (b.toNat + 1 ≤ a.toNat + cin.toNat),
        outside16 (a.toInt - b.toInt + cin.toNat - 1)⟩ := by
  have hb := b.isLt
  rw [add16_eq, BitVec.toNat_not, word_toInt_not, AluOut.mk.injEq]
  refine ⟨?_, ?_, congrArg outside16 (by omega)⟩
  · apply BitVec.eq_of_toNat_eq
    rw [BitVec.toNat_ofNat, BitVec.toNat_ofInt]
    omega
  · rw [decide_eq_decide]
    omega

/-- Subtraction without a borrow in (R90). -/
theorem add16_not_true (a b : Word) :
    add16 a (~~~b) true =
      ⟨a - b, decide (b.toNat ≤ a.toNat), outside16 (a.toInt - b.toInt)⟩ := by
  rw [add16_not, AluOut.mk.injEq]
  refine ⟨?_, ?_, congrArg outside16 (by simp)⟩
  · rw [show ((a.toNat : Int) - b.toNat + (true.toNat : Nat) - 1) = a.toNat - b.toNat by simp,
      ofInt_sub, ofInt_toNat, ofInt_toNat]
  · simp

/-! ## One operand -/

/-- A negation carries only for 0 and overflows only for 0x8000 (R94). -/
theorem add16_zero_not_true (x : Word) :
    add16 0 (~~~x) true = ⟨-x, decide (x = 0), decide (x = 0x8000)⟩ := by
  have hx := word_toInt_cases x
  have hzero : (0 : Word).toInt = 0 := rfl
  rw [add16_not_true, AluOut.mk.injEq, outside16, decide_eq_decide, decide_eq_decide, hzero]
  exact ⟨BitVec.zero_sub x, by bv_omega, by bv_omega⟩

/-- An increment carries only for 0xFFFF and overflows only for 0x7FFF (R96). -/
theorem add16_zero_true (y : Word) :
    add16 y 0 true = ⟨y + 1, decide (y = 0xFFFF), decide (y = 0x7FFF)⟩ := by
  have hy := word_toInt_cases y
  have hzero : (0 : Word).toInt = 0 := rfl
  rw [add16_eq, AluOut.mk.injEq, outside16, decide_eq_decide, decide_eq_decide, hzero, Bool.toNat_true]
  exact ⟨(BitVec.add_def y 1).symm, by bv_omega, by bv_omega⟩

/-- A decrement carries unless the operand is 0 and overflows only for 0x8000 (R97). -/
theorem add16_ones_false (y : Word) :
    add16 y 0xFFFF false = ⟨y - 1, decide (y ≠ 0), decide (y = 0x8000)⟩ := by
  have hy := word_toInt_cases y
  have hones : (0xFFFF : Word).toInt = -1 := rfl
  rw [add16_false, AluOut.mk.injEq, outside16, decide_eq_decide, decide_eq_decide, hones]
  exact ⟨(BitVec.sub_eq_add_neg y 1).symm, by bv_omega, by bv_omega⟩

/-- ABS gives the magnitude, never carries, and overflows only for 0x8000 (R101, D6). -/
theorem absOut_eq (x : Word) :
    absOut x = ⟨BitVec.ofInt 16 x.toInt.natAbs, false, decide (x = 0x8000)⟩ := by
  cases hneg : x.msb with
  | false =>
    have hpos : 0 ≤ x.toInt := by simpa [BitVec.msb_eq_toInt] using hneg
    have hne : x ≠ 0x8000 := by rintro rfl; exact absurd hneg (by decide)
    rw [absOut, hneg, Int.natAbs_of_nonneg hpos, BitVec.ofInt_toInt, decide_eq_false hne]
    rfl
  | true =>
    have hlt : x.toInt < 0 := by simpa [BitVec.msb_eq_toInt] using hneg
    have hne : x ≠ 0 := by rintro rfl; exact absurd hneg (by decide)
    rw [absOut, if_pos hneg, add16_zero_not_true, Int.ofNat_natAbs_of_nonpos (by omega), BitVec.ofInt_neg,
      BitVec.ofInt_toInt, decide_eq_false hne]

end Sys2Proof.Machine
end

section
/-! What an ALU function leaves: the effect of R83 to R87 from its triple, in the terms of the rules. -/

namespace Sys2Proof.Machine

theorem saturate_eq (sat : Bool) (o : AluOut) :
    saturate sat o = if sat = true ∧ o.v = true then (if o.c then 0x8000 else 0x7FFF) else o.r := by
  simp [saturate]

/-- The shared step of the ALU has the effect the rules give, and AS where the function writes it (R83 to R87). -/
theorem State.aluStep_eq (d : AluDst) (o : AluOut) (asBit : Option Bool) (s : State) :
    s.aluStep d o asBit =
      { aluNext d o.r o.c o.v s with
        astat := { (aluNext d o.r o.c o.v s).astat with AS := asBit.getD s.astat.AS } } := by
  have hAV : (if s.mstat.avLatch then s.astat.AV || o.v else o.v) =
      (o.v || (s.mstat.avLatch && s.astat.AV)) := by
    cases s.mstat.avLatch <;> simp [Bool.or_comm]
  rw [State.aluStep_spec]
  simp only [aluNext, onSelected_eq_setBank, aluFlags, hAV, BitVec.msb_eq_getLsbD_last]
  cases d <;> simp only [Bank.setAlu, saturate_eq] <;> rfl

/-- A function that leaves AS alone runs in every state and has the effect the rules give of its triple. -/
theorem exec_aluTerm_of_out {fn : AluFn} (hfn : fn ≠ .absx) {d : AluDst} {x : AluX} {y : AluY} {s : State}
    {o : AluOut} (ho : aluFnOut fn (s.bank.aluX x) (s.bank.aluY y) s.astat.AC = o) :
    exec (aluTerm fn d x y) s = .next (aluNext d o.r o.c o.v s) := by
  rw [exec_aluTerm, ho, aluFnAs, if_neg hfn, State.aluStep_eq]
  rfl

/-! ## The effect, field by field -/

theorem State.aluStep_bank (d : AluDst) (o : AluOut) (asBit : Option Bool) (s : State) :
    (s.aluStep d o asBit).bank = s.bank.setAlu d s.mstat.arSat o := s.setBank_bank _

theorem State.aluStep_astat (d : AluDst) (o : AluOut) (asBit : Option Bool) (s : State) :
    (s.aluStep d o asBit).astat = aluFlags s.mstat o asBit s.astat := rfl

@[simp] theorem Bank.setAlu_ar_ar (sat : Bool) (o : AluOut) (b : Bank) :
    (b.setAlu .ar sat o).ar = saturate sat o := rfl
@[simp] theorem Bank.setAlu_af_ar (sat : Bool) (o : AluOut) (b : Bank) : (b.setAlu .af sat o).ar = b.ar := rfl
@[simp] theorem Bank.setAlu_af_af (sat : Bool) (o : AluOut) (b : Bank) : (b.setAlu .af sat o).af = o.r := rfl

theorem aluFlags_AZ (m : Mstat) (o : AluOut) (asBit : Option Bool) (a : Astat) :
    (aluFlags m o asBit a).AZ = decide (saturate m.arSat o = 0) := rfl

theorem aluFlags_AN (m : Mstat) (o : AluOut) (asBit : Option Bool) (a : Astat) :
    (aluFlags m o asBit a).AN = (saturate m.arSat o).getLsbD 15 :=
  BitVec.msb_eq_getLsbD_last (saturate m.arSat o)

/-- In latch mode an ALU function leaves AV set (R85, D9). -/
theorem aluFlags_AV_of_latch {m : Mstat} {a : Astat} (hm : m.avLatch = true) (ha : a.AV = true) (o : AluOut)
    (asBit : Option Bool) : (aluFlags m o asBit a).AV = true := by
  simp [aluFlags, hm, ha]

@[simp] theorem aluNext_AC (d : AluDst) (r : Word) (c v : Bool) (s : State) :
    (aluNext d r c v s).astat.AC = c := rfl

@[simp] theorem aluNext_AV (d : AluDst) (r : Word) (c v : Bool) (s : State) :
    (aluNext d r c v s).astat.AV = (v || (s.mstat.avLatch && s.astat.AV)) := rfl

/-- The destination holds the ALU's output where nothing saturates: out of the mode, or in AF (R86). -/
theorem aluNext_aluResult {d : AluDst} {s : State} (h : s.mstat.arSat = false ∨ d = .af) (r : Word)
    (c v : Bool) : (aluNext d r c v s).aluResult d = r := by
  have hbank (f : Bank → Bank) (a : Astat) (n : Nat) :
      ({ onSelected f s with astat := a, idx := n } : State).bank = f s.bank := by
    rw [onSelected_eq_setBank]
    exact s.setBank_bank _
  cases d with
  | ar =>
    have hsat : s.mstat.arSat = false := by simpa using h
    rw [State.aluResult, aluNext, hbank]
    simp [hsat]
  | af => rw [State.aluResult, aluNext, hbank]

end Sys2Proof.Machine
end

section
/-! Multiword arithmetic (R107): a word put on top of a `k`-bit number, and a sum or difference of such numbers
from those of its two parts. -/

namespace Sys2Proof.Machine

/-! ## A word on top of a `k`-bit number -/

section
variable {k : Nat}

theorem word_append_toNat (x : Word) (a : BitVec k) : (x ++ a).toNat = x.toNat * 2 ^ k + a.toNat := by
  rw [BitVec.toNat_append, ← Nat.shiftLeft_add_eq_or_of_lt a.isLt, Nat.shiftLeft_eq]

theorem word_append_toInt (x : Word) (a : BitVec k) : (x ++ a).toInt = x.toInt * 2 ^ k + a.toNat := by
  rw [BitVec.toInt_append, Int.mul_comm]
  rfl

theorem word_append_eq_ofInt (x : Word) (a : BitVec k) :
    x ++ a = BitVec.ofInt (16 + k) (x.toNat * 2 ^ k + a.toNat) := by
  rw [← ofInt_toNat (x ++ a), word_append_toNat]
  push_cast
  rfl

/-- Numbers that differ by a multiple of `2 ^ n` are one `n`-bit word. -/
theorem ofInt_add_mul_two_pow (n : Nat) (i j : Int) : BitVec.ofInt n (i + j * 2 ^ n) = BitVec.ofInt n i := by
  apply BitVec.eq_of_toNat_eq
  rw [BitVec.toNat_ofInt, BitVec.toNat_ofInt]
  push_cast
  rw [Int.add_mul_emod_self_right]

/-- The upper word of a number may be cut to 16 bits before or after the number is put together. -/
theorem ofInt_append (q : Int) (l : BitVec k) :
    BitVec.ofInt 16 q ++ l = BitVec.ofInt (16 + k) (q * 2 ^ k + l.toNat) := by
  have hcut : ((BitVec.ofInt 16 q).toNat : Int) = q % 65536 := by
    rw [BitVec.toNat_ofInt]
    omega
  have hsplit : q * 2 ^ k + l.toNat = q % 65536 * 2 ^ k + l.toNat + q / 65536 * 2 ^ (16 + k) := by
    conv_lhs => rw [← Int.emod_add_mul_ediv q 65536]
    ring
  rw [word_append_eq_ofInt, hcut, hsplit, ofInt_add_mul_two_pow]

/-- Low bits do not change on which side of a multiple of `2 ^ k` a number lies. -/
theorem mul_two_pow_le_add_iff (m q : Int) (l : BitVec k) :
    m * 2 ^ k ≤ q * 2 ^ k + l.toNat ↔ m ≤ q := by
  have hpow : (0 : Int) < 2 ^ k := by positivity
  have hl : (l.toNat : Int) < 2 ^ k := mod_cast l.isLt
  rw [← Int.le_ediv_iff_mul_le hpow, Int.add_comm, Int.add_mul_ediv_right _ _ hpow.ne',
    Int.ediv_eq_zero_of_lt (by positivity) hl, Int.zero_add]

/-- A number overflows 16 + k bits exactly when its upper word overflows 16. -/
theorem outsideSigned_append (q : Int) (l : BitVec k) :
    outsideSigned (16 + k) (q * 2 ^ k + l.toNat) = outside16 q := by
  have hpow : (2 : Int) ^ (16 + k - 1) = 32768 * 2 ^ k := by
    rw [show 16 + k - 1 = 15 + k by omega, pow_add]
    norm_num
  rw [outsideSigned, outside16, decide_eq_decide, hpow, ← Int.neg_mul, ← Int.not_le,
    mul_two_pow_le_add_iff, mul_two_pow_le_add_iff]
  omega

/-! ## Sums -/

/-- A `k`-bit sum and its carry. -/
theorem toNat_add_toNat_eq (a b : BitVec k) :
    (a.toNat : Int) + b.toNat = (decide (2 ^ k ≤ a.toNat + b.toNat)).toNat * 2 ^ k + (a + b).toNat := by
  have ha := a.isLt
  have hb := b.isLt
  rw [BitVec.toNat_add]
  by_cases h : 2 ^ k ≤ a.toNat + b.toNat
  · have hmod : (a.toNat + b.toNat) % 2 ^ k = a.toNat + b.toNat - 2 ^ k := by
      rw [Nat.mod_eq_sub_mod h, Nat.mod_eq_of_lt (by omega)]
    rw [hmod, decide_eq_true h]
    push_cast [h]
    simp
  · rw [Nat.mod_eq_of_lt (by omega), decide_eq_false h]
    simp

section
variable (x y : Word) {a b : BitVec k} {c : Bool} (hc : c = decide (2 ^ k ≤ a.toNat + b.toNat))
include hc

/-- The upper words, of whichever reading, and the carry give the sum of the whole (R107). -/
theorem add_upper_eq (i j : Int) :
    (i * 2 ^ k + a.toNat) + (j * 2 ^ k + b.toNat) = (i + j + c.toNat) * 2 ^ k + (a + b).toNat := by
  have h := toNat_add_toNat_eq a b
  rw [← hc] at h
  linear_combination h

theorem add_append :
    BitVec.ofNat 16 (x.toNat + y.toNat + c.toNat) ++ (a + b) = (x ++ a) + (y ++ b) := by
  rw [← BitVec.ofInt_natCast, ofInt_append, word_append_eq_ofInt x, word_append_eq_ofInt y,
    ← BitVec.ofInt_add, add_upper_eq hc]
  push_cast
  rfl

theorem add_append_carry :
    decide (65536 ≤ x.toNat + y.toNat + c.toNat) = decide (2 ^ (16 + k) ≤ (x ++ a).toNat + (y ++ b).toNat) := by
  have h := mul_two_pow_le_add_iff 65536 (x.toNat + y.toNat + c.toNat) (a + b)
  rw [← add_upper_eq hc] at h
  rw [decide_eq_decide, word_append_toNat, word_append_toNat, pow_add]
  exact_mod_cast h.symm

theorem add_append_overflow :
    outside16 (x.toInt + y.toInt + c.toNat) = outsideSigned (16 + k) ((x ++ a).toInt + (y ++ b).toInt) := by
  rw [word_append_toInt, word_append_toInt, add_upper_eq hc, outsideSigned_append]

end

/-! ## Differences -/

/-- A `k`-bit difference and its borrow. -/
theorem toNat_sub_toNat_eq (a b : BitVec k) :
    (a.toNat : Int) - b.toNat = ((decide (b.toNat ≤ a.toNat)).toNat - 1) * 2 ^ k + (a - b).toNat := by
  have ha := a.isLt
  have hb := b.isLt
  by_cases h : b.toNat ≤ a.toNat
  · rw [BitVec.toNat_sub_of_le h, decide_eq_true h]
    push_cast [h]
    simp
  · have hlt : a.toNat < b.toNat := Nat.lt_of_not_le h
    rw [BitVec.toNat_sub_of_lt hlt, decide_eq_false h]
    push_cast [hlt.le, show b.toNat - a.toNat ≤ 2 ^ k by omega]
    simp only [Bool.toNat_false]
    push_cast
    ring

section
variable (x y : Word) {a b : BitVec k} {c : Bool} (hc : c = decide (b.toNat ≤ a.toNat))
include hc

/-- The upper words, of whichever reading, and the borrow give the difference of the whole (R107). -/
theorem sub_upper_eq (i j : Int) :
    (i * 2 ^ k + a.toNat) - (j * 2 ^ k + b.toNat) = (i - j + c.toNat - 1) * 2 ^ k + (a - b).toNat := by
  have h := toNat_sub_toNat_eq a b
  rw [← hc] at h
  linear_combination h

theorem sub_append :
    BitVec.ofInt 16 (x.toNat - y.toNat + c.toNat - 1) ++ (a - b) = (x ++ a) - (y ++ b) := by
  rw [ofInt_append, word_append_eq_ofInt x, word_append_eq_ofInt y, ← ofInt_sub, sub_upper_eq hc]

theorem sub_append_carry :
    decide (y.toNat + 1 ≤ x.toNat + c.toNat) = decide ((y ++ b).toNat ≤ (x ++ a).toNat) := by
  have h := mul_two_pow_le_add_iff 0 (x.toNat - y.toNat + c.toNat - 1) (a - b)
  rw [← sub_upper_eq hc] at h
  rw [decide_eq_decide, word_append_toNat, word_append_toNat]
  zify
  omega

theorem sub_append_overflow :
    outside16 (x.toInt - y.toInt + c.toNat - 1) =
      outsideSigned (16 + k) ((x ++ a).toInt - (y ++ b).toInt) := by
  rw [word_append_toInt, word_append_toInt, sub_upper_eq hc, outsideSigned_append]

end

end

end Sys2Proof.Machine
end

section
/-! The obligations of 40_alu.md: the adder, the nineteen functions, AR saturation, the AV latch, and multiword
arithmetic. -/

namespace Sys2Proof.Machine

/-! ## The adder -/

/-- Settles O19: `add16_eq` for the sum, `add16_not_true` for the subtraction. -/
theorem adderCarryAndOverflow : Obligations.AdderCarryAndOverflow := by
  unfold Obligations.AdderCarryAndOverflow
  intro a b cin
  refine ⟨BitVec.toNat_ofNat _ _, rfl, add16_v a b cin, ?_, ?_⟩
  all_goals rw [add16_not_true]

/-! ## The functions -/

/-- Settles O20: each function's triple by its equation for the adder. -/
theorem aluSums : Obligations.AluSums := by
  unfold Obligations.AluSums
  intro d x y s
  exact ⟨exec_aluTerm_of_out (fn := .add) (by decide) (add16_false _ _),
    exec_aluTerm_of_out (fn := .addc) (by decide) (add16_eq _ _ _),
    exec_aluTerm_of_out (fn := .incy) (x := x) (by decide) (add16_zero_true _)⟩

/-- Settles O21: each function's triple by its equation for the adder. -/
theorem aluDifferences : Obligations.AluDifferences := by
  unfold Obligations.AluDifferences
  intro d x y s
  exact ⟨exec_aluTerm_of_out (fn := .sub) (by decide) (add16_not_true _ _),
    exec_aluTerm_of_out (fn := .subb) (by decide) (add16_not _ _ _),
    exec_aluTerm_of_out (fn := .rsub) (by decide) (add16_not_true _ _),
    exec_aluTerm_of_out (fn := .rsubb) (by decide) (add16_not _ _ _)⟩

/-- Settles O22: each function's triple by its equation for the adder. -/
theorem aluNegationsAndDecrement : Obligations.AluNegationsAndDecrement := by
  unfold Obligations.AluNegationsAndDecrement
  intro d x y s
  exact ⟨exec_aluTerm_of_out (fn := .negx) (y := y) (by decide) (add16_zero_not_true _),
    exec_aluTerm_of_out (fn := .negy) (x := x) (by decide) (add16_zero_not_true _),
    exec_aluTerm_of_out (fn := .decy) (x := x) (by decide) (add16_ones_false _)⟩

/-- Settles O23: these functions' triple is `noCarry` of their result. -/
theorem aluLogic : Obligations.AluLogic := by
  unfold Obligations.AluLogic
  intro d x y s
  have run (fn : AluFn) (hfn : fn ≠ .absx) := exec_aluTerm_of_out hfn (d := d) (x := x) (y := y) (s := s) rfl
  exact ⟨run .passx (by decide), run .passy (by decide), run .clear (by decide), run .and (by decide),
    run .or (by decide), run .xor (by decide), run .notx (by decide), run .noty (by decide)⟩

/-- Settles O24: the triple is that of `absOut_eq`, and AS the operand's sign bit. -/
theorem aluAbs : Obligations.AluAbs := by
  unfold Obligations.AluAbs
  intro d x s
  have hexec := exec_aluTerm .absx d x .ay0 s
  rw [State.aluStep_eq, aluFnOut, absOut_eq, aluFnAs, if_pos rfl, Option.getD_some,
    BitVec.msb_eq_getLsbD_last] at hexec
  exact ⟨_, hexec, rfl, rfl⟩

/-- Settles O25: both destinations have one triple, which AF shows as it is with the mode and the latch off. -/
theorem arSaturationTable : Obligations.ArSaturationTable := by
  unfold Obligations.ArSaturationTable
  intro fn x y s
  refine ⟨_, _, _, exec_aluTerm fn .ar x y s, exec_aluTerm fn .af x y s, exec_aluTerm fn .af x y _, ?_⟩
  simp only [State.aluStep_bank, State.aluStep_astat, Bank.setAlu_ar_ar, Bank.setAlu_af_ar, Bank.setAlu_af_af]
  exact ⟨saturate_eq _ _, rfl, trivial, aluFlags_AZ _ _ _ _, aluFlags_AN _ _ _ _⟩

/-- Settles O18: AV changes only under an ALU function (`flagWriter_of_flag_ne`), and the latch keeps it set. -/
theorem avLatchSticks : Obligations.AvLatchSticks := by
  unfold Obligations.AvLatchSticks
  intro i s t hlatch hAV h
  by_contra! hnot
  obtain ⟨hclear, hload, hmove⟩ := hnot
  have hne : t.astat.flag .AV ≠ s.astat.flag .AV := fun heq => hclear (heq.trans hAV)
  obtain ⟨fn, d, x, y, rfl⟩ : FlagWriter .AV i := flagWriter_of_flag_ne h hload hmove hne
  rw [exec_aluTerm] at h
  cases h
  exact hclear (aluFlags_AV_of_latch hlatch hAV _ _)

/-! ## Multiword arithmetic -/

section
variable {d : AluDst} {s : State} (hd : s.mstat.arSat = false ∨ d = .af) (x : AluX) (y : AluY)
include hd

/-- ADDC of any words extends a `k`-bit sum whose carry stands in AC by 16 bits (R107). -/
theorem exec_aluAddc_extends {k : Nat} {a b : BitVec k}
    (hc : s.astat.AC = decide (2 ^ k ≤ a.toNat + b.toNat)) :
    ∃ u, exec (.aluAddc d x y) s = .next u ∧
      u.aluResult d ++ (a + b) = (s.bank.aluX x ++ a) + (s.bank.aluY y ++ b) ∧
      u.astat.AC = decide (2 ^ (16 + k) ≤ (s.bank.aluX x ++ a).toNat + (s.bank.aluY y ++ b).toNat) ∧
      u.astat.AV = (outsideSigned (16 + k) ((s.bank.aluX x ++ a).toInt + (s.bank.aluY y ++ b).toInt) ||
        (s.mstat.avLatch && s.astat.AV)) := by
  obtain ⟨-, hexec, -⟩ := aluSums d x y s
  refine ⟨_, hexec, ?_, ?_, ?_⟩
  · rw [aluNext_aluResult hd, add_append _ _ hc]
  · rw [aluNext_AC, add_append_carry _ _ hc]
  · rw [aluNext_AV, add_append_overflow _ _ hc]

/-- SUBB of any words extends a `k`-bit difference whose carry stands in AC by 16 bits (R107). -/
theorem exec_aluSubb_extends {k : Nat} {a b : BitVec k} (hc : s.astat.AC = decide (b.toNat ≤ a.toNat)) :
    ∃ u, exec (.aluSubb d x y) s = .next u ∧
      u.aluResult d ++ (a - b) = (s.bank.aluX x ++ a) - (s.bank.aluY y ++ b) ∧
      u.astat.AC = decide ((s.bank.aluY y ++ b).toNat ≤ (s.bank.aluX x ++ a).toNat) ∧
      u.astat.AV = (outsideSigned (16 + k) ((s.bank.aluX x ++ a).toInt - (s.bank.aluY y ++ b).toInt) ||
        (s.mstat.avLatch && s.astat.AV)) := by
  obtain ⟨-, hexec, -⟩ := aluDifferences d x y s
  refine ⟨_, hexec, ?_, ?_, ?_⟩
  · rw [aluNext_aluResult hd, sub_append _ _ hc]
  · rw [aluNext_AC, sub_append_carry _ _ hc]
  · rw [aluNext_AV, sub_append_overflow _ _ hc]

end

/-- Settles O27: the first pair leaves a 16-bit result with its carry in AC, and each further pair extends it
(`exec_aluAddc_extends`, `exec_aluSubb_extends`). -/
theorem multiprecisionExact : Obligations.MultiprecisionExact := by
  unfold Obligations.MultiprecisionExact
  intro d d' x x' y y' s s' hd hd'
  obtain ⟨hadd, -, -⟩ := aluSums d x y s
  obtain ⟨hsub, -, -, -⟩ := aluDifferences d x y s
  refine ⟨⟨_, hadd, fun hAC => ?_⟩, ⟨_, hsub, fun hAC => ?_⟩,
    fun k a b hc => exec_aluAddc_extends hd' x' y' hc, fun k a b hc => exec_aluSubb_extends hd' x' y' hc⟩
  · rw [aluNext_aluResult hd]
    exact exec_aluAddc_extends hd' x' y' hAC
  · rw [aluNext_aluResult hd]
    exact exec_aluSubb_extends hd' x' y' hAC

end Sys2Proof.Machine
end

section
/-! What a divide primitive leaves (R121, R122): the shift of the AF-AY0 pair in the terms of the rules, and the
effect field by field. -/

namespace Sys2Proof.Machine

/-! ## The shift of the AF-AY0 pair -/

/-- One place to the left: the top bit falls out and a bit enters below. -/
theorem shiftLeftOne_eq (w : Word) (b : BitVec 1) :
    (w.extractLsb' 0 15 ++ b : Word) = BitVec.ofNat 16 (2 * w.toNat + b.toNat) := by
  have hb := b.isLt
  apply BitVec.eq_of_toNat_eq
  rw [BitVec.toNat_append, ← Nat.shiftLeft_add_eq_or_of_lt b.isLt, Nat.shiftLeft_eq,
    BitVec.extractLsb'_toNat, BitVec.toNat_ofNat, Nat.shiftRight_zero]
  omega

theorem divAf_eq (r ay0 : Word) : divAf r ay0 = BitVec.ofNat 16 (2 * r.toNat + ay0.toNat / 32768) := by
  have htop : (ay0.extractLsb' 15 1).toNat = ay0.toNat / 32768 := by
    rw [BitVec.extractLsb'_toNat, Nat.shiftRight_eq_div_pow]
    omega
  rw [divAf, shiftLeftOne_eq, htop]

theorem divAy0_eq (ay0 : Word) (bit : Bool) :
    divAy0 ay0 bit = BitVec.ofNat 16 (2 * ay0.toNat + bit.toNat) := by
  rw [divAy0, shiftLeftOne_eq, BitVec.toNat_ofBool]

/-! ## The shared step -/

/-- The shared step of the divide primitives has the effect the rules give of its output (R121, R122). -/
theorem State.divStep_eq (o : DivOut) (s : State) : s.divStep o = divNext o.r o.q o.bit s := by
  rw [State.divStep_spec, divNext, onSelected_eq_setBank, divAf_eq, divAy0_eq]

theorem divNext_bank (r : Word) (q bit : Bool) (s : State) :
    (divNext r q bit s).bank =
      { s.bank with
        af := BitVec.ofNat 16 (2 * r.toNat + s.bank.ay0.toNat / 32768)
        ay0 := BitVec.ofNat 16 (2 * s.bank.ay0.toNat + bit.toNat) } := by
  rw [divNext, onSelected_eq_setBank]
  exact s.setBank_bank _

@[simp] theorem divNext_AQ (r : Word) (q bit : Bool) (s : State) : (divNext r q bit s).astat.AQ = q := rfl

/-- No divisor register is written by a divide primitive. -/
theorem divNext_aluX (r : Word) (q bit : Bool) (x : AluX) (s : State) :
    (divNext r q bit s).bank.aluX x = s.bank.aluX x := by
  rw [divNext_bank]
  cases x <;> rfl

/-- AF, where the output and AY0 are `v` and `m` modulo 2^16. -/
theorem divNext_af_of_ofInt {r : Word} {s : State} {v m : Int} (hr : r = BitVec.ofInt 16 v)
    (hay0 : s.bank.ay0 = BitVec.ofInt 16 m) (q bit : Bool) :
    (divNext r q bit s).bank.af = BitVec.ofInt 16 (2 * v + (m / 32768 - 2 * (m / 65536))) := by
  rw [divNext_bank, hr, hay0]
  apply BitVec.eq_of_toNat_eq
  simp only [BitVec.toNat_ofNat, BitVec.toNat_ofInt]
  omega

/-- AY0, where it was `m` modulo 2^16. -/
theorem divNext_ay0_of_ofInt {s : State} {m : Int} (hay0 : s.bank.ay0 = BitVec.ofInt 16 m) (r : Word)
    (q bit : Bool) : (divNext r q bit s).bank.ay0 = BitVec.ofInt 16 (2 * m + bit.toNat) := by
  rw [divNext_bank, hay0]
  apply BitVec.eq_of_toNat_eq
  simp only [BitVec.toNat_ofNat, BitVec.toNat_ofInt]
  omega

/-! ## The primitives -/

/-- Settles O28: the shared step, by its equation `State.divStep_eq`. -/
theorem divsEffect : Obligations.DivsEffect := by
  unfold Obligations.DivsEffect
  refine fun y x s => ⟨fun hy => ?_, fun hy => if_pos hy⟩
  rw [exec_divs, execDivs_of_ne hy, State.divStep_eq, divsOut, BitVec.msb_eq_getLsbD_last,
    BitVec.msb_eq_getLsbD_last]

/-- Settles O29: the shared step, by its equation `State.divStep_eq`, for either value of AQ. -/
theorem divqEffect : Obligations.DivqEffect := by
  unfold Obligations.DivqEffect
  intro x s
  refine ⟨(divqOut s.astat.AQ (s.bank.aluX x) s.bank.af).r, ?_, ?_⟩
  · cases s.astat.AQ with
    | false => simp [divqOut, ofInt_sub]
    | true => simp [divqOut, BitVec.ofInt_add]
  · rw [exec_divq, State.divStep_eq, ← BitVec.msb_eq_getLsbD_last, ← BitVec.msb_eq_getLsbD_last]
    rfl

end Sys2Proof.Machine
end

section
/-! The quotient the divide primitives aim at: over the integers, the one whose remainder has the divisor's sign
and is 0 only under a positive divisor. -/

namespace Sys2Proof.Machine

/-- `q` is the quotient of `n` by `d` with a remainder from 0 up to `d`, or from `d` up to −1. -/
def IsQuotient (n d q : Int) : Prop :=
  0 ≤ n - d * q ∧ n - d * q < d ∨ d ≤ n - d * q ∧ n - d * q < 0

theorem IsQuotient.eq_ediv {n d q : Int} (hd : 0 < d) (h : IsQuotient n d q) : q = n / d := by
  obtain ⟨hlow, hhigh⟩ | ⟨hlow, hhigh⟩ := h
  · refine ((Int.ediv_emod_unique hd (r := n - d * q)).mpr ⟨by ring, hlow, hhigh⟩).1.symm
  · omega

/-- Under a negative divisor the remainder, negated and less one, is one of the ordinary division by `-d`. -/
theorem IsQuotient.eq_neg_ediv {n d q : Int} (hd : d < 0) (h : IsQuotient n d q) :
    q = (-n - 1) / -d := by
  obtain ⟨hlow, hhigh⟩ | ⟨hlow, hhigh⟩ := h
  · omega
  · refine ((Int.ediv_emod_unique (by omega) (r := -(n - d * q) - 1)).mpr
      ⟨by ring, by omega, by omega⟩).1.symm

theorem IsQuotient.unique {n d q q' : Int} (hd : d ≠ 0) (h : IsQuotient n d q) (h' : IsQuotient n d q') :
    q = q' := by
  obtain hneg | hpos := lt_or_gt_of_ne hd
  · rw [h.eq_neg_ediv hneg, h'.eq_neg_ediv hneg]
  · rw [h.eq_ediv hpos, h'.eq_ediv hpos]

/-- The table of R126 states this quotient, by cases over the truncated one. -/
theorem isQuotient_quotientOfTable (n : Int) {d : Int} (hd : d ≠ 0) :
    IsQuotient n d (quotientOfTable n d) := by
  have hdiv := Int.mul_tdiv_add_tmod n d
  have hless : d * (n.tdiv d - 1) = d * n.tdiv d - d := by ring
  have hlow := Int.emod_nonneg n hd
  have hhigh := Int.emod_lt n hd
  have hrem := Int.tmod_eq_emod (a := n) (b := d)
  rw [IsQuotient, quotientOfTable]
  by_cases hsame : 0 ≤ n ∨ d ∣ n
  · rw [if_pos hsame] at hrem
    rw [Int.dvd_iff_emod_eq_zero] at hsame
    split_ifs <;> omega
  · rw [if_neg hsame] at hrem
    rw [Int.dvd_iff_emod_eq_zero] at hsame
    split_ifs <;> omega

theorem IsQuotient.add {n d q : Int} (h : IsQuotient n d q) (j : Int) : IsQuotient (n + d * j) d (q + j) := by
  rwa [IsQuotient, show n + d * j - d * (q + j) = n - d * q by ring]

/-! ## Remainders that may be made good once -/

/-- `v` is a remainder of a division by `d`, or lacks one `d` to be one. -/
def WithinDivisor (d v : Int) : Prop :=
  0 < d ∧ -d ≤ v ∧ v < d ∨ d < 0 ∧ d ≤ v ∧ v < -d

/-- It lacks one exactly when its sign is not the divisor's: the exclusive-OR that DIVS and DIVQ leave in AQ. -/
theorem WithinDivisor.isQuotient {d v : Int} (h : WithinDivisor d v) :
    IsQuotient v d (-(decide (d < 0) ^^ decide (v < 0)).toNat) := by
  rw [WithinDivisor] at h
  rw [IsQuotient]
  cases hlack : decide (d < 0) ^^ decide (v < 0) with
  | true =>
    have hdiff : ¬ (d < 0 ↔ v < 0) := by simpa using hlack
    rw [Bool.toNat_true, Nat.cast_one, Int.mul_neg_one]
    omega
  | false =>
    have hsame : d < 0 ↔ v < 0 := by simpa using hlack
    rw [Bool.toNat_false, Nat.cast_zero, Int.neg_zero, Int.mul_zero]
    omega

/-- Trying the odd quotient of a dividend with one bit more leaves such a number. -/
theorem IsQuotient.withinDivisor_odd {p d q : Int} (h : IsQuotient (p / 2) d q) :
    WithinDivisor d (p - d * (2 * q + 1)) := by
  have hodd : d * (2 * q + 1) = 2 * (d * q) + d := by ring
  rw [WithinDivisor]
  obtain hpos | hneg := h <;> omega

/-- A dividend whose quotient has 16 bits has such a number for its upper half. -/
theorem IsQuotient.withinDivisor_upper {n d q : Int} (h : IsQuotient n d q) (hlow : -32768 ≤ q)
    (hhigh : q ≤ 32767) : WithinDivisor d (n / 32768) := by
  obtain ⟨hr, hr'⟩ | ⟨hr, hr'⟩ := h
  · have hmin := Int.mul_le_mul_of_nonneg_left hlow (by omega : 0 ≤ d)
    have hmax := Int.mul_le_mul_of_nonneg_left hhigh (by omega : 0 ≤ d)
    left
    omega
  · have hmax := Int.mul_le_mul_of_nonpos_left (by omega : d ≤ 0) hlow
    have hmin := Int.mul_le_mul_of_nonpos_left (by omega : d ≤ 0) hhigh
    right
    omega

end Sys2Proof.Machine
end

section
/-! The non-restoring division that repeated DIVQ performs: its invariant, that each DIVQ keeps it, and what a
run of them leaves. -/

namespace Sys2Proof.Machine

/-- The sign bit of a word is the sign of the number of 16 bits that it holds. -/
theorem getLsbD_last_eq (w : Word) : w.getLsbD 15 = decide (w.toInt < 0) := by
  rw [← BitVec.msb_eq_toInt, BitVec.msb_eq_getLsbD_last]

/-- The low word of a number is the number modulo 2^16. -/
theorem ofInt_mul_two_pow_add (i : Int) (w : Word) : BitVec.ofInt 16 (i * 2 ^ 16 + w.toNat) = w := by
  rw [Int.add_comm, ofInt_add_mul_two_pow, ofInt_toNat]

/-- A state in the course of a divide by the register `x`, which holds `d`. The integer `m` is the AF-AY0 pair
shifted without loss, the quotient bits entering below. Its upper part `m / 65536` is the part of the dividend that
has come up so far, and `q` is the quotient of all of that part but its last bit. AF is the remainder of this
division with the last bit behind it, less twice the divisor where AQ says that the last subtraction went too far
and is still to be made good. -/
structure Dividing (x : AluX) (d m q : Int) (s : State) : Prop where
  divisor_eq : (s.bank.aluX x).toInt = d
  af_eq : s.bank.af = BitVec.ofInt 16 (m / 65536 - 2 * (d * (q + s.astat.AQ.toNat)))
  ay0_eq : s.bank.ay0 = BitVec.ofInt 16 m
  quotient : IsQuotient (m / 65536 / 2) d q

section
variable {x : AluX} {d m q : Int} {s : State}

/-- What both primitives leave: where the part of the dividend that AF's next value holds has the quotient `q`,
and the output is what is left of it, less the divisor once more where the new AQ says so. -/
theorem dividing_divNext {r : Word} {c : Bool} (hdiv : (s.bank.aluX x).toInt = d)
    (hr : r = BitVec.ofInt 16 (m / 65536 - d * (q + c.toNat))) (hay0 : s.bank.ay0 = BitVec.ofInt 16 m)
    (hquot : IsQuotient (m / 65536) d q) (bit : Bool) :
    Dividing x d (2 * m + bit.toNat) q (divNext r c bit s) := by
  have hle := bit.toNat_le
  refine ⟨by rw [divNext_aluX, hdiv], ?_, divNext_ay0_of_ofInt hay0 _ _ _, ?_⟩
  · rw [divNext_af_of_ofInt hr hay0, divNext_AQ, show (2 * m + bit.toNat) / 65536 = m / 32768 by omega]
    congr 1
    ring
  · rwa [show (2 * m + bit.toNat) / 65536 / 2 = m / 65536 by omega]

/-! ## DIVQ -/

theorem execTimes_succ_of_next {i : Instr} {s t : State} (h : exec i s = .next t) (k : Nat) :
    execTimes i (k + 1) s = execTimes i k t := by
  rw [execTimes, h]

/-- Adding back after a subtraction too many and subtracting once more come to the one trial subtraction. -/
theorem Dividing.output_eq (h : Dividing x d m q s) :
    BitVec.ofInt 16 (if s.astat.AQ then (s.bank.af.toNat : Int) + (s.bank.aluX x).toNat
        else (s.bank.af.toNat : Int) - (s.bank.aluX x).toNat) =
      BitVec.ofInt 16 (m / 65536 - d * (2 * q + 1)) := by
  obtain ⟨hdiv, haf, -, -⟩ := h
  have hx : s.bank.aluX x = BitVec.ofInt 16 d := by rw [← hdiv, BitVec.ofInt_toInt]
  cases hAQ : s.astat.AQ with
  | false =>
    rw [if_neg (by simp), ofInt_sub, ofInt_toNat, ofInt_toNat, haf, hx, hAQ, ← ofInt_sub, Bool.toNat_false]
    congr 1
    push_cast
    ring
  | true =>
    rw [if_pos rfl, BitVec.ofInt_add, ofInt_toNat, ofInt_toNat, haf, hx, hAQ, ← BitVec.ofInt_add,
      Bool.toNat_true]
    congr 1
    push_cast
    ring

theorem Dividing.withinDivisor (h : Dividing x d m q s) : WithinDivisor d (m / 65536 - d * (2 * q + 1)) :=
  h.quotient.withinDivisor_odd

/-- The trial subtraction does not overflow a word. -/
theorem Dividing.output_toInt (h : Dividing x d m q s) :
    (BitVec.ofInt 16 (m / 65536 - d * (2 * q + 1))).toInt = m / 65536 - d * (2 * q + 1) := by
  have hd : -32768 ≤ d ∧ d ≤ 32767 := by
    have hx := word_toInt_cases (s.bank.aluX x)
    rw [h.divisor_eq] at hx
    omega
  have hrange := h.withinDivisor
  rw [WithinDivisor] at hrange
  exact BitVec.toInt_ofInt_eq_self (by decide) (by omega) (by omega)

/-- DIVQ brings one more dividend bit and one more quotient bit, which is 0 where the remainder lacks a divisor. -/
theorem Dividing.divq (h : Dividing x d m q s) :
    ∃ (b : Bool) (t : State), exec (.divq x) s = .next t ∧
      Dividing x d (2 * m + b.toNat) (2 * q + b.toNat) t := by
  obtain ⟨r, hr, hexec⟩ := divqEffect x s
  rw [h.output_eq] at hr
  have hquot := h.withinDivisor.isQuotient.add (2 * q + 1)
  rw [Int.sub_add_cancel, ← h.output_toInt, ← hr, ← h.divisor_eq, ← getLsbD_last_eq, ← getLsbD_last_eq,
    h.divisor_eq] at hquot
  generalize ((s.bank.aluX x).getLsbD 15 ^^ r.getLsbD 15) = c at hexec hquot
  have hbit : -(c.toNat : Int) + (2 * q + 1) = 2 * q + (!c).toNat := by
    cases c <;> simp [Int.add_comm]
  have htrial : 2 * q + 1 = 2 * q + (!c).toNat + c.toNat := by omega
  rw [hbit] at hquot
  rw [htrial] at hr
  exact ⟨!c, _, hexec, dividing_divNext h.divisor_eq hr h.ay0_eq hquot _⟩

/-- A run of `k` DIVQ brings `k` quotient bits, which stand for `c`. -/
theorem Dividing.execTimes_divq (k : Nat) (h : Dividing x d m q s) :
    ∃ (t : State) (c : Nat), execTimes (.divq x) k s = .next t ∧ c < 2 ^ k ∧
      Dividing x d (m * 2 ^ k + c) (q * 2 ^ k + c) t := by
  induction k generalizing m q s with
  | zero => exact ⟨s, 0, rfl, by simp, by simpa using h⟩
  | succ k ih =>
    obtain ⟨b, u, hexec, hu⟩ := h.divq
    obtain ⟨t, c, hrun, hc, ht⟩ := ih hu
    have hb : b.toNat * 2 ^ k ≤ 1 * 2 ^ k := Nat.mul_le_mul_right _ b.toNat_le
    refine ⟨t, b.toNat * 2 ^ k + c, (execTimes_succ_of_next hexec k).trans hrun, by omega, ?_⟩
    convert ht using 1 <;> push_cast <;> ring

/-! ## The first state -/

/-- The unsigned divide begins at once: no quotient bit is there yet (R124). -/
theorem dividing_of_unsigned (hAQ : s.astat.AQ = false) (hd : (s.bank.aluX x).toNat < 0x8000)
    (haf : s.bank.af.toNat < (s.bank.aluX x).toNat) :
    Dividing x (s.bank.aluX x).toNat (s.bank.af.toNat * 65536 + s.bank.ay0.toNat) 0 s := by
  have hx := word_toInt_cases (s.bank.aluX x)
  have hlower := s.bank.ay0.isLt
  have hupper : ((s.bank.af.toNat : Int) * 65536 + s.bank.ay0.toNat) / 65536 = s.bank.af.toNat := by omega
  refine ⟨by omega, ?_, ?_, ?_⟩
  · rw [hupper, hAQ]
    simp
  · exact (ofInt_mul_two_pow_add _ _).symm
  · rw [hupper, IsQuotient]
    omega

/-- DIVS brings the quotient's sign bit, when the dividend's upper half is within the divisor (R123). -/
theorem dividing_of_divs {y : AluY} {n : Int} (hy : y ≠ .ay0)
    (hn : n = (s.bank.aluY y ++ s.bank.ay0 : Long).toInt)
    (hrange : WithinDivisor (s.bank.aluX x).toInt (n / 65536)) :
    ∃ (b : Bool) (t : State), exec (.divs y x) s = .next t ∧
      Dividing x (s.bank.aluX x).toInt (2 * n + b.toNat) (-b.toNat) t := by
  rw [word_append_toInt] at hn
  have hlower := s.bank.ay0.isLt
  have hupper : (s.bank.aluY y).toInt = n / 65536 := by omega
  have hyw : s.bank.aluY y = BitVec.ofInt 16 (n / 65536) := by rw [← hupper, BitVec.ofInt_toInt]
  have hay0 : s.bank.ay0 = BitVec.ofInt 16 n := by rw [hn, ofInt_mul_two_pow_add]
  have hquot := hrange.isQuotient
  rw [← hupper, ← getLsbD_last_eq, ← getLsbD_last_eq, hupper] at hquot
  exact ⟨_, _, (divsEffect y x s).1 hy, dividing_divNext rfl (by simpa using hyw) hay0 hquot _⟩

end

end Sys2Proof.Machine
end

section
/-! The obligations of 41_alu_divide.md on a whole divide; those on the two primitives stand with their effects
above. -/

namespace Sys2Proof.Machine

/-- Settles O30: the invariant `Dividing` holds at once, and sixteen DIVQ replace all of AY0 by the quotient. -/
theorem unsignedDivide : Obligations.UnsignedDivide := by
  unfold Obligations.UnsignedDivide
  intro x s hAQ hd haf
  obtain ⟨t, c, hrun, hc, ht⟩ := (dividing_of_unsigned hAQ hd haf).execTimes_divq 16
  refine ⟨t, hrun, ?_⟩
  have hay0 : t.bank.ay0.toNat = c := by
    rw [ht.ay0_eq, BitVec.toNat_ofInt]
    omega
  have hquot := ht.quotient.eq_ediv (by omega)
  rw [hay0]
  zify
  rw [show ((s.bank.af.toNat : Int) * 65536 + s.bank.ay0.toNat) / 2 =
    ((s.bank.af.toNat * 65536 + s.bank.ay0.toNat) * 2 ^ 16 + c) / 65536 / 2 by omega, ← hquot]
  ring

/-- Settles O31: the invariant `Dividing` holds after DIVS, fifteen DIVQ replace the rest of AY0 by the quotient,
and the table of R126 states the same one. -/
theorem signedDivide : Obligations.SignedDivide := by
  unfold Obligations.SignedDivide
  intro y x s q hy hd hq hlow hhigh
  have htable := isQuotient_quotientOfTable ((s.bank.aluY y ++ s.bank.ay0 : Long).toInt / 2) hd
  rw [← hq] at htable
  generalize hn : (s.bank.aluY y ++ s.bank.ay0 : Long).toInt = n at htable
  have hrange := htable.withinDivisor_upper hlow hhigh
  rw [show n / 2 / 32768 = n / 65536 by omega] at hrange
  obtain ⟨b, t, hexec, ht⟩ := dividing_of_divs hy hn.symm hrange
  obtain ⟨u, c, hrun, hc, hu⟩ := ht.execTimes_divq 15
  have hb := b.toNat_le
  have hquot := hu.quotient
  rw [show ((2 * n + b.toNat) * 2 ^ 15 + c) / 65536 / 2 = n / 2 by omega] at hquot
  have hay0 : u.bank.ay0 = BitVec.ofInt 16 (-b.toNat * 2 ^ 15 + c) := by
    rw [hu.ay0_eq, ← ofInt_add_mul_two_pow 16 (-b.toNat * 2 ^ 15 + c) (n + b.toNat)]
    congr 1
    ring
  refine ⟨t, u, hexec, hrun, ?_⟩
  rw [hay0, htable.unique hd hquot]
  exact BitVec.toInt_ofInt_eq_self (by decide) (by omega) (by omega)

end Sys2Proof.Machine
end

section
/-! The multiplier/accumulator's datapath against the integers (R136 to R144): the exact product through the
extension, the format adjustment and the adder, each modulo 2^40, then rounding and the test behind MV. -/

namespace Sys2Proof.Machine

/-! ## The product -/

/-- The multiplier cuts the exact product to 32 bits (R136, R137). -/
theorem product_eq (fmt : MacFmt) (x y : Word) : product fmt x y = BitVec.ofInt 32 (exactProduct fmt x y) := by
  cases fmt <;> rfl

/-- A signed operand times an operand of either kind fits 32 bits. -/
theorem mul_fits_long {a b : Int} (ha : |a| ≤ 32768) (hb : |b| ≤ 65535) :
    -2 ^ 31 ≤ a * b ∧ a * b < 2 ^ 31 := by
  have habs : |a * b| ≤ 32768 * 65535 := by
    rw [abs_mul]
    gcongr
  obtain ⟨hlow, hhigh⟩ := abs_le.mp habs
  omega

theorem abs_word_toInt_le (w : Word) : |w.toInt| ≤ 32768 := by
  have hw := word_toInt_cases w
  exact abs_le.mpr ⟨by omega, by omega⟩

theorem abs_word_toNat_le (w : Word) : |(w.toNat : Int)| ≤ 65535 :=
  abs_le.mpr ⟨by omega, by omega⟩

/-- Only an unsigned product can need more than 32 signed bits (R137). -/
theorem exactProduct_fits_long {fmt : MacFmt} (h : fmt ≠ .uu) (x y : Word) :
    -2 ^ 31 ≤ exactProduct fmt x y ∧ exactProduct fmt x y < 2 ^ 31 := by
  have signed (v w : Word) : -2 ^ 31 ≤ v.toInt * w.toInt ∧ v.toInt * w.toInt < 2 ^ 31 :=
    mul_fits_long (abs_word_toInt_le v) ((abs_word_toInt_le w).trans (by decide))
  cases fmt with
  | ss => exact signed x y
  | su => exact mul_fits_long (abs_word_toInt_le x) (abs_word_toNat_le y)
  | us =>
    have hyx := mul_fits_long (abs_word_toInt_le y) (abs_word_toNat_le x)
    rwa [mul_comm] at hyx
  | uu => exact absurd rfl h
  | rnd => exact signed x y

theorem exactProduct_uu_bounds (x y : Word) :
    0 ≤ exactProduct .uu x y ∧ exactProduct .uu x y < 2 ^ 32 := by
  have h : x.toNat * y.toNat < 65536 * 65536 := Nat.mul_lt_mul'' x.isLt y.isLt
  simp only [exactProduct]
  omega

/-! ## The extension to 40 bits -/

theorem signExtend_ofInt {p : Int} (hlow : -2 ^ 31 ≤ p) (hhigh : p < 2 ^ 31) :
    (BitVec.ofInt 32 p).signExtend 40 = BitVec.ofInt 40 p := by
  rw [BitVec.signExtend, BitVec.toInt_ofInt_eq_self (by decide) hlow hhigh]

theorem zeroExtend_ofInt {p : Int} (hlow : 0 ≤ p) (hhigh : p < 2 ^ 32) :
    (BitVec.ofInt 32 p).zeroExtend 40 = BitVec.ofInt 40 p := by
  apply BitVec.eq_of_toNat_eq
  rw [BitVec.zeroExtend_eq_setWidth, BitVec.toNat_setWidth, BitVec.toNat_ofInt, BitVec.toNat_ofInt]
  omega

/-- Sign extension of an unsigned product of 2^31 or more takes 2^32 away (R141, D10). -/
theorem signExtend_ofInt_of_le {p : Int} (hlow : 2 ^ 31 ≤ p) (hhigh : p < 2 ^ 32) :
    (BitVec.ofInt 32 p).signExtend 40 = BitVec.ofInt 40 (p - 2 ^ 32) := by
  rw [← signExtend_ofInt (by omega) (by omega), ← ofInt_add_mul_two_pow 32 (p - 2 ^ 32) 1]
  congr 2
  ring

theorem extendProduct_of_ne_uu {fmt : MacFmt} (h : fmt ≠ .uu) (u : UuExtend) (p : Long) :
    extendProduct u fmt p = p.signExtend 40 := by
  cases fmt with
  | uu => exact absurd rfl h
  | ss | su | us | rnd => rfl

/-- The product on the adder's side of the extension, as `adderTerm` reads it (R141). -/
theorem extendProduct_product (u : UuExtend) (fmt : MacFmt) (x y : Word) :
    extendProduct u fmt (product fmt x y) =
      BitVec.ofInt 40 (if fmt = .uu ∧ u = .sign ∧ 2 ^ 31 ≤ exactProduct fmt x y
        then exactProduct fmt x y - 2 ^ 32 else exactProduct fmt x y) := by
  rw [product_eq]
  by_cases hfmt : fmt = .uu
  · subst hfmt
    obtain ⟨hlow, hhigh⟩ := exactProduct_uu_bounds x y
    cases u with
    | zero => exact (zeroExtend_ofInt hlow hhigh).trans (by simp)
    | sign =>
      by_cases hbig : 2 ^ 31 ≤ exactProduct .uu x y
      · rw [if_pos ⟨rfl, rfl, hbig⟩]
        exact signExtend_ofInt_of_le hbig hhigh
      · rw [if_neg (fun h => hbig h.2.2)]
        exact signExtend_ofInt (by omega) (by omega)
  · obtain ⟨hlow, hhigh⟩ := exactProduct_fits_long hfmt x y
    rw [if_neg (fun h => hfmt h.1), extendProduct_of_ne_uu hfmt, signExtend_ofInt hlow hhigh]

/-! ## The adder -/

/-- One place to the left in fractional mode doubles (R140). -/
theorem adjustProduct_ofInt (mMode : Bool) (i : Int) :
    adjustProduct mMode (BitVec.ofInt 40 i) = BitVec.ofInt 40 (if mMode then i else 2 * i) := by
  cases mMode with
  | true => rfl
  | false =>
    rw [adjustProduct, BitVec.shiftLeft_eq_mul_twoPow, mul_comm, if_neg (by decide), if_neg (by decide),
      BitVec.ofInt_mul]
    rfl

/-- Multiplier, extension, adjustment and adder compute the integer result modulo 2^40 (R142, R158). -/
theorem macSum_eq (fn : MacFn) (fmt : MacFmt) (x y : Word) (s : State) :
    macSum fn s.bank.mr
        (adjustProduct s.mstat.mMode (extendProduct s.config.uuExtend fmt (product fmt x y))) =
      BitVec.ofInt 40 (adderResult s fn fmt x y) := by
  have hterm : adjustProduct s.mstat.mMode (extendProduct s.config.uuExtend fmt (product fmt x y)) =
      BitVec.ofInt 40 (adderTerm s fmt x y) := by
    rw [extendProduct_product, adjustProduct_ofInt, adderTerm]
  rw [hterm]
  cases fn with
  | mul => rfl
  | add => rw [adderResult, BitVec.ofInt_add, BitVec.ofInt_toInt, macSum]
  | sub => rw [adderResult, ofInt_sub, BitVec.ofInt_toInt, macSum]

/-! ## Rounding -/

/-- Clearing bits takes away those that were set. -/
theorem and_not_eq_sub {n : Nat} (r m : BitVec n) : r &&& ~~~m = r - (r &&& m) := by
  have hdisjoint : (r &&& ~~~m) &&& (r &&& m) = 0#n := by
    ext i hi
    cases hm : m[i] <;> simp [hm]
  have hunion : (r &&& ~~~m) ||| (r &&& m) = r := by
    ext i hi
    cases hm : m[i] <;> simp [hm]
  rw [eq_sub_iff_add_eq, BitVec.add_eq_or_of_and_eq_zero _ _ hdisjoint, hunion]

/-- Bit 16 of a number modulo 2^40. -/
theorem ofInt_getLsbD_sixteen (i : Int) : (BitVec.ofInt 40 i).getLsbD 16 = decide (i / 65536 % 2 = 1) := by
  rw [← BitVec.testBit_toNat, Nat.testBit_eq_decide_div_mod_eq, BitVec.toNat_ofInt, decide_eq_decide]
  omega

/-- Bit 16 forced to zero (R143). -/
theorem ofInt_clear_sixteen (i : Int) :
    BitVec.ofInt 40 i &&& ~~~0x10000 = BitVec.ofInt 40 (if i / 65536 % 2 = 1 then i - 65536 else i) := by
  rw [and_not_eq_sub, show (0x10000 : Accum) = BitVec.twoPow 40 16 from rfl, BitVec.and_twoPow,
    ofInt_getLsbD_sixteen]
  by_cases hbit : i / 65536 % 2 = 1
  · simp only [hbit, decide_true, if_true, ofInt_sub]
    rfl
  · simp [hbit]

/-- The rounding of R143, on a number modulo 2^40. -/
theorem roundAccum_ofInt (biased : Bool) (i : Int) :
    roundAccum biased (BitVec.ofInt 40 i) = BitVec.ofInt 40 (roundInt biased i) := by
  have hlow : (BitVec.ofInt 40 i).extractLsb' 0 16 = 0x8000 ↔ i % 65536 = 32768 := by
    rw [← BitVec.toNat_inj, BitVec.extractLsb'_toNat, BitVec.toNat_ofInt, Nat.shiftRight_zero,
      show (0x8000 : Word).toNat = 32768 from rfl]
    omega
  have hsum : BitVec.ofInt 40 i + 0x8000 = BitVec.ofInt 40 (i + 32768) := by
    rw [BitVec.ofInt_add]
    rfl
  rw [roundAccum, roundInt]
  simp only [hlow, hsum]
  by_cases hmid : i % 65536 = 32768 ∧ biased = false
  · obtain ⟨hhalf, rfl⟩ := hmid
    rw [if_pos ⟨hhalf, rfl⟩, ofInt_clear_sixteen]
    refine congrArg (BitVec.ofInt 40) ?_
    by_cases heven : i / 65536 % 2 = 0
    · rw [if_pos (by omega), if_pos ⟨hhalf, rfl, heven⟩]
      omega
    · rw [if_neg (by omega), if_neg (fun h => heven h.2.2)]
  · rw [if_neg hmid, if_neg (fun h => hmid ⟨h.1, h.2.1⟩)]

/-- The formats other than RND pass the adder's result (R143). -/
theorem macFinal_of_ne_rnd {fmt : MacFmt} (h : fmt ≠ .rnd) (biased : Bool) (r : Accum) :
    macFinal fmt biased r = r := by
  cases fmt with
  | rnd => exact absurd rfl h
  | ss | su | us | uu => rfl

theorem macFinal_rnd_ofInt (biased : Bool) (i : Int) :
    macFinal .rnd biased (BitVec.ofInt 40 i) = BitVec.ofInt 40 (roundInt biased i) :=
  roundAccum_ofInt biased i

/-- Rounding an accumulator is rounding the unsigned number it spells, modulo 2^40 (R143). -/
theorem macFinal_rnd_toNat (biased : Bool) (r : Accum) :
    (macFinal .rnd biased r).toNat = (roundInt biased r.toNat % (2 ^ 40 : Nat)).toNat := by
  rw [← BitVec.toNat_ofInt, ← macFinal_rnd_ofInt, ofInt_toNat]

/-- Rounding leaves the low word as the addition of 2^15 leaves it (R143). -/
theorem roundInt_emod (biased : Bool) (i : Int) : roundInt biased i % 65536 = (i + 32768) % 65536 := by
  rw [roundInt]
  split <;> omega

/-- The part above the boundary goes to the nearest value, at the midpoint to the even one or up (R143). -/
theorem roundInt_ediv (biased : Bool) (n : Nat) :
    roundInt biased n / 65536 =
      ((if n % 65536 < 32768 then n / 65536
        else if n % 65536 = 32768 ∧ biased = false then n / 65536 + n / 65536 % 2
        else n / 65536 + 1 : Nat) : Int) := by
  rw [roundInt]
  by_cases hmid : n % 65536 = 32768 ∧ biased = false
  · rw [if_neg (show ¬ n % 65536 < 32768 by omega), if_pos hmid]
    obtain ⟨hhalf, rfl⟩ := hmid
    by_cases heven : (n : Int) / 65536 % 2 = 0
    · rw [if_pos ⟨by omega, rfl, heven⟩]
      omega
    · rw [if_neg (fun h => heven h.2.2)]
      omega
  · rw [if_neg (fun h => hmid ⟨by omega, h.2.1⟩), if_neg hmid]
    split <;> omega

/-! ## MV -/

/-- The upper nine bits are all alike exactly within the 32-bit signed range (R144). -/
theorem mvOf_eq (r : Accum) : mvOf r = decide (r.toInt < -(2 ^ 31) ∨ 2 ^ 31 - 1 < r.toInt) := by
  have htop : (r.extractLsb' 31 9).toNat = r.toNat / 2 ^ 31 := by
    rw [BitVec.extractLsb'_toNat, Nat.shiftRight_eq_div_pow]
    omega
  have hzero : (0 : BitVec 9).toNat = 0 := rfl
  have hones : (BitVec.allOnes 9).toNat = 511 := rfl
  have hsign := BitVec.toInt_eq_toNat_cond r
  rw [Bool.eq_iff_iff]
  simp only [mvOf, Bool.and_eq_true, bne_iff_ne, ne_eq, decide_eq_true_eq, ← BitVec.toNat_inj, htop,
    hzero, hones]
  split at hsign <;> omega

end Sys2Proof.Machine
end

section
/-! What a MAC instruction leaves (R144, R145, R157): the shared write and the saturation instruction, in the
terms of the rules. -/

namespace Sys2Proof.Machine

/-! ## The shared write -/

/-- The shared write of the MAC has the effect the rules give of its result (R144, R145). -/
theorem State.macWrite_eq (d : MacDst) (r : Accum) (s : State) : s.macWrite d r = macNext d r s := by
  rw [State.macWrite_spec, mvOf_eq]
  simp only [macNext, onSelected_eq_setBank]
  cases d <;> rfl

/-- A multiply function runs in every state and leaves its format's rounding of the adder's result (R138). -/
theorem exec_macTerm_eq (fn : MacFn) (fmt : MacFmt) (d : MacDst) (x : MacX) (y : MacY) (s : State) :
    exec (macTerm fn fmt d x y) s =
      .next (macNext d (macFinal fmt s.biasedRounding
        (BitVec.ofInt 40 (adderResult s fn fmt (s.bank.macX x) (s.bank.macY y)))) s) := by
  rw [exec_macTerm, State.macWrite_eq, State.macResult, macSum_eq]

/-! ## Saturation -/

@[simp] theorem Bank.setMr_self (b : Bank) : b.setMr b.mr = b := by
  obtain ⟨hupper, hmr0⟩ := (eq_append_iff 24 16).mp (show b.mr = (b.mr2 ++ b.mr1) ++ b.mr0 from rfl)
  obtain ⟨hmr2, hmr1⟩ := (extractLsb'_eq_append_iff 8 16).mp hupper
  rw [Bank.setMr, hmr0, hmr1, hmr2]

theorem Bank.mr_msb (b : Bank) : b.mr.msb = b.mr2.getLsbD 7 := by
  rw [Bank.mr, BitVec.msb_append, BitVec.msb_append, ← BitVec.msb_eq_getLsbD_last]
  rfl

/-- Table 2.3 section by section (R157). -/
theorem Bank.setMr_saturateMr (mv : Bool) (b : Bank) :
    b.setMr (saturateMr mv b.mr) =
      if mv = true then
        (if b.mr2.getLsbD 7 = true then { b with mr2 := 0xFF, mr1 := 0x8000, mr0 := 0x0000 }
        else { b with mr2 := 0x00, mr1 := 0x7FFF, mr0 := 0xFFFF })
      else b := by
  cases mv with
  | false => exact b.setMr_self
  | true =>
    rw [saturateMr, Bank.mr_msb, if_pos rfl, if_pos rfl]
    split <;> rfl

end Sys2Proof.Machine
end

section
/-! The obligations of 42_mac.md: the multiply functions, the clears, saturation, MV and rounding. -/

namespace Sys2Proof.Machine

/-! ## The instructions -/

/-- Settles O32: no rounding in these formats, so the adder's result goes to the shared write. -/
theorem macProducts : Obligations.MacProducts := by
  unfold Obligations.MacProducts
  intro fn fmt d x y s hfmt
  rw [exec_macTerm_eq, macFinal_of_ne_rnd hfmt]

/-- Settles O33: the adder's result is rounded, by `macFinal_rnd_ofInt`. -/
theorem macRounded : Obligations.MacRounded := by
  unfold Obligations.MacRounded
  intro fn d x y s
  rw [exec_macTerm_eq, macFinal_rnd_ofInt, State.biasedRounding]

/-- Settles O34: the shared write of 0. -/
theorem macClears : Obligations.MacClears := by
  unfold Obligations.MacClears
  intro d s
  rw [exec_macClear, State.macWrite_eq]

/-- Settles O35: the sections of MR by `Bank.setMr_saturateMr`. -/
theorem satMrTable : Obligations.SatMrTable := by
  unfold Obligations.SatMrTable
  intro s
  refine ⟨_, exec_satMr s, ?_⟩
  rw [onSelected_eq_setBank, Bank.setMr_saturateMr]
  rfl

/-! ## MV and rounding -/

/-- Settles O36: the equation of MV that the shared write of the MAC rests on. -/
theorem mvIsRangeTest : Obligations.MvIsRangeTest := mvOf_eq

/-- Settles O37: both parts of the rounded accumulator are those of `roundInt` of the number it spells. -/
theorem roundingToNearest : Obligations.RoundingToNearest := by
  unfold Obligations.RoundingToNearest
  intro fmt biased r
  have hupper := roundInt_ediv biased r.toNat
  have hlow := roundInt_emod biased r.toNat
  rw [macFinal_rnd_toNat]
  exact ⟨fun hfmt => macFinal_of_ne_rnd hfmt biased r, by omega, by omega⟩

end Sys2Proof.Machine
end

section
/-! The shifter array against the integers (R172): the bits of an integer, how scaling by a power of two moves them,
and the array as such a scaling, of the numbers that ASHIFT and LSHIFT take their input for (R175). -/

namespace Sys2Proof.Machine

/-! ## Bits of an integer -/

/-- Bit `k` of an integer in twos-complement, which has zeros below its bit 0. -/
def intBit (i k : Int) : Bool := decide (0 ≤ k ∧ i / 2 ^ k.toNat % 2 = 1)

theorem intBit_of_neg {k : Int} (h : k < 0) (i : Int) : intBit i k = false :=
  decide_eq_false fun hk => absurd hk.1 (by omega)

theorem intBit_of_eq {i k : Int} {n : Nat} (h : k = n) : intBit i k = decide (i / 2 ^ n % 2 = 1) := by
  simp [intBit, h]

/-- A bit of a word made of an integer is that bit of the integer. -/
theorem getLsbD_ofInt {n j : Nat} (h : j < n) (i : Int) : (BitVec.ofInt n i).getLsbD j = intBit i j := by
  have hpow : (2 : Int) ^ n = 2 ^ j * (2 * 2 ^ (n - j - 1)) := by
    rw [← pow_succ', ← pow_add]
    congr 1
    omega
  have hcut : i / 2 ^ j % 2 = i % 2 ^ n / 2 ^ j % 2 := by
    conv_lhs => rw [← Int.emod_add_mul_ediv i (2 ^ n), hpow]
    rw [← hpow, hpow, mul_assoc, Int.add_mul_ediv_left _ _ (by positivity), mul_assoc,
      Int.add_mul_emod_self_left]
  have hnat : ((BitVec.ofInt n i).toNat : Int) = i % 2 ^ n := by
    rw [BitVec.toNat_ofInt, Int.toNat_of_nonneg (Int.emod_nonneg _ (by positivity))]
    norm_cast
  rw [intBit_of_eq rfl, hcut, ← hnat, ← BitVec.testBit_toNat, Nat.testBit_eq_decide_div_mod_eq]
  norm_cast

theorem intBit_toNat {n : Nat} (w : BitVec n) (k : Int) :
    intBit w.toNat k = (decide (0 ≤ k) && w.getLsbD k.toNat) := by
  rw [← BitVec.testBit_toNat, Nat.testBit_eq_decide_div_mod_eq, intBit, Bool.decide_and]
  norm_cast

/-- The bits of a number with a word at its lower end. -/
theorem intBit_mul_add (q : Int) (w : Word) (k : Int) :
    intBit (q * 65536 + w.toNat) k =
      if k < 16 then (decide (0 ≤ k) && w.getLsbD k.toNat) else intBit q (k - 16) := by
  split
  · rw [← intBit_toNat]
    by_cases hk : 0 ≤ k
    · obtain ⟨j, rfl⟩ := Int.eq_ofNat_of_zero_le hk
      rw [← getLsbD_ofInt (n := 16) (by omega), ← getLsbD_ofInt (n := 16) (by omega), Int.add_comm,
        show (65536 : Int) = 2 ^ 16 by norm_num, ofInt_add_mul_two_pow]
    · rw [intBit_of_neg (by omega), intBit_of_neg (by omega)]
  · obtain ⟨j, hj⟩ : ∃ j : Nat, k - 16 = j := Int.eq_ofNat_of_zero_le (by omega)
    have hw := w.isLt
    rw [intBit_of_eq hj, intBit_of_eq (show k = (16 + j : Nat) by omega), pow_add,
      ← Int.ediv_ediv_of_nonneg (by positivity), show (q * 65536 + w.toNat) / 2 ^ 16 = q by omega]

/-- The sign bit's continuation: all bits of 0 are clear, all of −1 set. -/
theorem intBit_ite (x : Bool) {k : Int} (h : 0 ≤ k) : intBit (if x then -1 else 0) k = x := by
  obtain ⟨j, rfl⟩ := Int.eq_ofNat_of_zero_le h
  cases x with
  | false => simp [intBit]
  | true =>
    have hsign : (2 ^ j : Int).sign = 1 := Int.sign_eq_one_of_pos (by positivity)
    simp [intBit_of_eq rfl, Int.neg_one_ediv, hsign]

/-! ## Scaling -/

/-- Scaling by a power of two and rounding down shifts the bits (R172). -/
theorem intBit_scaleFloor (i c : Int) (j : Nat) : intBit (scaleFloor i c) j = intBit i (j - c) := by
  rw [intBit_of_eq rfl, scaleFloor]
  by_cases hc : 0 ≤ c
  · obtain ⟨m, rfl⟩ := Int.eq_ofNat_of_zero_le hc
    rw [if_pos hc, Int.toNat_natCast]
    by_cases hj : j < m
    · obtain ⟨d, rfl⟩ := Nat.exists_eq_add_of_lt hj
      rw [intBit_of_neg (by omega), show i * 2 ^ (j + d + 1) = 2 ^ j * (i * 2 ^ d * 2) by ring,
        Int.mul_ediv_cancel_left _ (by positivity), Int.mul_emod_left]
      rfl
    · obtain ⟨d, rfl⟩ := Nat.exists_eq_add_of_le (Nat.le_of_not_lt hj)
      rw [intBit_of_eq (n := d) (by omega), pow_add, mul_comm i, Int.mul_ediv_mul_of_pos _ _ (by positivity)]
  · obtain ⟨m, hm⟩ := Int.eq_ofNat_of_zero_le (show 0 ≤ -c by omega)
    rw [if_neg hc, hm, Int.toNat_natCast, Int.ediv_ediv_of_nonneg (by positivity), ← pow_add,
      intBit_of_eq (n := m + j) (by omega)]

/-- The parts of a number above and within its low word, each scaled, together are the scaled number. -/
theorem ofInt_scaleFloor_or (q : Int) (w : Word) (c : Int) :
    BitVec.ofInt 32 (scaleFloor q (c + 16)) ||| BitVec.ofInt 32 (scaleFloor w.toNat c) =
      BitVec.ofInt 32 (scaleFloor (q * 65536 + w.toNat) c) := by
  apply BitVec.eq_of_getLsbD_eq
  intro j hj
  rw [BitVec.getLsbD_or, getLsbD_ofInt hj, getLsbD_ofInt hj, getLsbD_ofInt hj, intBit_scaleFloor,
    intBit_scaleFloor, intBit_scaleFloor, intBit_mul_add, intBit_toNat]
  split
  · rw [intBit_of_neg (by omega), Bool.false_or]
  · rw [BitVec.getLsbD_of_ge _ _ (by omega), Bool.and_false, Bool.or_false, Int.sub_sub]

/-! ## The array -/

/-- The place of the array's output at which a control code of 0 puts the input's bit 0 (R172). -/
def hiLoPlace : HiLo → Int
  | .hi => 16
  | .lo => 0

/-- The array scales its input, continued to the left by the extension bit, and cuts it to 32 bits (R172). -/
theorem shifterArray_eq (inp : Word) (c : Int) (hl : HiLo) (x : Bool) :
    shifterArray inp c hl x =
      BitVec.ofInt 32 (scaleFloor ((if x then -1 else 0) * 65536 + inp.toNat) (c + hiLoPlace hl)) := by
  have hplace : (if hl = .hi then 16 else 0 : Int) = hiLoPlace hl := by cases hl <;> rfl
  have hinp : (inp.toNat : Int) - (if x then 65536 else 0) = (if x then -1 else 0) * 65536 + inp.toNat := by
    split <;> ring
  rw [shifterArray, hplace, hinp, scaleFloor, apply_ite (BitVec.ofInt 32)]
  norm_cast

theorem arrayBit_eq (inp : Word) (c : Int) (hl : HiLo) (x : Bool) (j : Nat) :
    arrayBit inp c hl x j =
      if (j : Int) < c + hiLoPlace hl then false
      else if (j : Int) ≤ c + hiLoPlace hl + 15 then inp.getLsbD ((j : Int) - (c + hiLoPlace hl)).toNat
      else x := by
  cases hl <;> rfl

/-- Settles O38: bit `j` of the output is bit `j - s` of the input as the extension bit continues it. -/
theorem shifterArrayBits : Obligations.ShifterArrayBits := by
  unfold Obligations.ShifterArrayBits
  intro inp c hl x j hj
  rw [shifterArray_eq, getLsbD_ofInt hj, intBit_scaleFloor, intBit_mul_add, arrayBit_eq]
  by_cases hlow : (j : Int) < c + hiLoPlace hl
  · rw [if_pos (by omega), if_pos hlow, decide_eq_false (by omega), Bool.false_and]
  · rw [if_neg hlow]
    by_cases hinside : (j : Int) ≤ c + hiLoPlace hl + 15
    · rw [if_pos (by omega), if_pos hinside, decide_eq_true (by omega), Bool.true_and]
    · rw [if_neg (by omega), if_neg hinside, intBit_ite x (by omega)]

/-- The input of ASHIFT as a twos-complement number, that of LSHIFT as an unsigned one (R175). -/
def shiftOperand (kind : ShiftKind) (w : Word) : Int :=
  match kind with
  | .ashift => w.toInt
  | .lshift => w.toNat

/-- ASHIFT and LSHIFT scale the number that their input stands for (R172, R175). -/
theorem shifterArray_shiftExt (kind : ShiftKind) (inp : Word) (c : Int) (hl : HiLo) :
    shifterArray inp c hl (shiftExt kind inp) =
      BitVec.ofInt 32 (scaleFloor (shiftOperand kind inp) (c + hiLoPlace hl)) := by
  rw [shifterArray_eq]
  congr 2
  cases kind with
  | lshift => simp [shiftExt, shiftOperand]
  | ashift =>
    have hinp := word_toInt_cases inp
    rw [shiftExt, shiftOperand, BitVec.msb_eq_toInt]
    by_cases hneg : inp.toInt < 0
    · rw [decide_eq_true hneg, if_pos rfl]
      omega
    · rw [decide_eq_false hneg, if_neg (by simp)]
      omega

end Sys2Proof.Machine
end

section
/-! What a shift leaves (R176): SR from the array's output, in the terms of the rules and as a number. -/

namespace Sys2Proof.Machine

/-- The shared write of the shifts has the effect the rules give of the array's output (R176). -/
theorem State.shiftWrite_eq (orSr : Bool) (a : Long) (s : State) : s.shiftWrite orSr a = shiftNext orSr a s := by
  rw [State.shiftWrite_spec, shiftNext, onSelected_eq_setBank]
  rfl

@[simp] theorem State.shiftWrite_sr (orSr : Bool) (a : Long) (s : State) :
    (s.shiftWrite orSr a).bank.sr = orPass orSr s.bank.sr a := by
  rw [State.shiftWrite, State.advance_bank, State.setBank_bank, Bank.setSr_sr]

@[simp] theorem State.shiftWrite_se (orSr : Bool) (a : Long) (s : State) :
    (s.shiftWrite orSr a).bank.se = s.bank.se := by
  rw [State.shiftWrite, State.advance_bank, State.setBank_bank, Bank.setSr_se]

theorem shiftExt_eq (kind : ShiftKind) (w : Word) :
    shiftExt kind w = (decide (kind = .ashift) && w.getLsbD 15) := by
  cases kind with
  | ashift => exact BitVec.msb_eq_getLsbD_last w
  | lshift => rfl

theorem normExt_eq (hl : HiLo) (ac : Bool) : normExt hl ac = (decide (hl = .hi) && ac) := by
  cases hl <;> rfl

/-! ## The instructions -/

/-- A shift by a control code has the effect the rules give of the array's output for it (R172, R175, R176). -/
theorem State.shiftStep_isArrayOutput (kind : ShiftKind) (orSr : Bool) (hl : HiLo) (x : ShX) (c : Int) (s : State) :
    ∃ a, IsArrayOutput (s.bank.shX x) c hl (decide (kind = .ashift) && (s.bank.shX x).getLsbD 15) a ∧
      s.shiftStep kind orSr hl x c = shiftNext orSr a s := by
  rw [← shiftExt_eq, State.shiftStep, State.shiftWrite_eq]
  exact ⟨_, shifterArrayBits _ _ _ _, rfl⟩

theorem State.normStep_eq {s : State} (h : s.bank.se.toInt ≠ -128) (orSr : Bool) (hl : HiLo) (x : ShX) :
    s.normStep orSr hl x = .next (s.shiftWrite orSr
      (shifterArray (s.bank.shX x) (-s.bank.se.toInt) hl (normExt hl s.astat.AC))) := if_neg h

/-- Settles O39: the shared step of the shifts, by SE. -/
theorem shiftsBySe : Obligations.ShiftsBySe := by
  unfold Obligations.ShiftsBySe
  intro kind orSr hl x s
  obtain ⟨a, ha, hstep⟩ := s.shiftStep_isArrayOutput kind orSr hl x s.bank.se.toInt
  exact ⟨a, ha, by rw [exec_shiftTerm, hstep]⟩

/-- Settles O40: the shared step of the shifts, by the immediate. -/
theorem shiftsByImmediate : Obligations.ShiftsByImmediate := by
  unfold Obligations.ShiftsByImmediate
  intro kind orSr hl x e s
  obtain ⟨a, ha, hstep⟩ := s.shiftStep_isArrayOutput kind orSr hl x e.toInt
  exact ⟨a, ha, by rw [exec_shiftImmTerm, hstep]⟩

/-- Settles O41: the two cases of the shared step of NORM. -/
theorem normalizes : Obligations.Normalizes := by
  unfold Obligations.Normalizes
  intro orSr hl x s
  rw [exec_normTerm]
  refine ⟨fun hse => ?_, fun hse => if_pos hse⟩
  rw [State.normStep_eq hse, State.shiftWrite_eq, ← normExt_eq]
  exact ⟨_, shifterArrayBits _ _ _ _, rfl⟩

/-! ## Double precision -/

/-- What the array gives of a shifter input for a shift by SE: the input's number scaled (R172, R184, R186). -/
def State.shiftedBySe (kind : ShiftKind) (hl : HiLo) (x : ShX) (s : State) : Long :=
  BitVec.ofInt 32 (scaleFloor (shiftOperand kind (s.bank.shX x)) (s.bank.se.toInt + hiLoPlace hl))

/-- A shift by SE passes the array's output or ORs it into SR, and keeps SE (R176, R184, R186). -/
theorem exec_shiftTerm_sr (kind : ShiftKind) (orSr : Bool) (hl : HiLo) (x : ShX) (s : State) :
    ∃ t, exec (shiftTerm kind orSr hl x) s = .next t ∧ t.bank.se = s.bank.se ∧
      t.bank.sr = orPass orSr s.bank.sr (s.shiftedBySe kind hl x) := by
  refine ⟨_, exec_shiftTerm kind orSr hl x s, ?_, ?_⟩ <;> rw [State.shiftStep]
  · exact State.shiftWrite_se ..
  · rw [State.shiftWrite_sr, shifterArray_shiftExt, State.shiftedBySe]

/-- The 32-bit number of two words, as ASHIFT or LSHIFT takes its upper one (R198). -/
def doubleOperand (kind : ShiftKind) (n : Long) : Int :=
  match kind with
  | .ashift => n.toInt
  | .lshift => n.toNat

theorem doubleOperand_append (kind : ShiftKind) (h l : Word) :
    doubleOperand kind (h ++ l) = shiftOperand kind h * 65536 + l.toNat := by
  cases kind with
  | ashift => exact word_append_toInt h l
  | lshift =>
    rw [doubleOperand, word_append_toNat]
    norm_cast

/-- A shift and then one with [SR OR], SE and SR as the first one left them: the two outputs ORed (R176). -/
theorem exec_two_shifts {kind kind' : ShiftKind} {hl hl' : HiLo} {x x' : ShX} {s s' : State} {r : Long}
    (h : s'.bank.se = s.bank.se → s.shiftedBySe kind hl x ||| s'.shiftedBySe kind' hl' x' = r) :
    ∃ t, exec (shiftTerm kind false hl x) s = .next t ∧ (s'.bank.sr = t.bank.sr → s'.bank.se = t.bank.se →
      ∃ u, exec (shiftTerm kind' true hl' x') s' = .next u ∧ u.bank.sr = r) := by
  obtain ⟨t, ht, htse, htsr⟩ := exec_shiftTerm_sr kind false hl x s
  obtain ⟨u, hu, -, husr⟩ := exec_shiftTerm_sr kind' true hl' x' s'
  refine ⟨t, ht, fun hsr hse => ⟨u, hu, ?_⟩⟩
  rw [husr, hsr, htsr, ← h (hse.trans htse)]
  rfl

/-- The upper half shifted (HI) and the lower one (LO) by one SE, ORed together, are the number scaled (R198). -/
theorem shiftedBySe_halves {s s' : State} (hse : s'.bank.se = s.bank.se) (kind : ShiftKind) (xh xl : ShX) :
    s.shiftedBySe kind .hi xh ||| s'.shiftedBySe .lshift .lo xl =
      BitVec.ofInt 32 (scaleFloor (doubleOperand kind (s.bank.shX xh ++ s'.bank.shX xl)) s.bank.se.toInt) := by
  rw [State.shiftedBySe, State.shiftedBySe, hse, hiLoPlace, hiLoPlace, Int.add_zero, doubleOperand_append]
  exact ofInt_scaleFloor_or _ _ _

/-- Settles O49: the two outputs, one above the other, are the bits of the one scaled number, in either order. -/
theorem doublePrecisionShift : Obligations.DoublePrecisionShift := by
  unfold Obligations.DoublePrecisionShift
  intro xh xl s s'
  have upper (kind : ShiftKind) (hse : s'.bank.se = s.bank.se) := shiftedBySe_halves hse kind xh xl
  have lower (kind : ShiftKind) (hse : s'.bank.se = s.bank.se) :
      s.shiftedBySe .lshift .lo xl ||| s'.shiftedBySe kind .hi xh =
        BitVec.ofInt 32 (scaleFloor (doubleOperand kind (s'.bank.shX xh ++ s.bank.shX xl)) s.bank.se.toInt) := by
    rw [BitVec.or_comm, shiftedBySe_halves hse.symm, hse]
  exact ⟨exec_two_shifts (upper .ashift), exec_two_shifts (lower .ashift),
    exec_two_shifts (upper .lshift), exec_two_shifts (lower .lshift)⟩

end Sys2Proof.Machine
end

section
/-! The exponent detector (R178 to R182): the leading bits it counts, and what the instructions that read it leave
(R192 to R195). -/

namespace Sys2Proof.Machine

/-! ## Leading bits -/

theorem leadingEq_le (w : Word) (b : Bool) (k : Nat) : leadingEq w b k ≤ k := by
  induction k with
  | zero => exact Nat.le_refl 0
  | succ k ih =>
    rw [leadingEq]
    split <;> omega

/-- The bits counted all equal the given bit. -/
theorem getLsbD_of_lt_leadingEq {w : Word} {b : Bool} {k j : Nat} (h : j < leadingEq w b k) :
    w.getLsbD (k - 1 - j) = b := by
  induction k generalizing j with
  | zero => exact absurd h (Nat.not_lt_zero j)
  | succ k ih =>
    rw [leadingEq] at h
    split at h
    case isTrue htop =>
      cases j with
      | zero => exact htop
      | succ j => rw [show k + 1 - 1 - (j + 1) = k - 1 - j by omega, ih (by omega)]
    case isFalse => exact absurd h (Nat.not_lt_zero j)

/-- The bit at which the count stops is another one. -/
theorem getLsbD_leadingEq {w : Word} {b : Bool} {k : Nat} (h : leadingEq w b k < k) :
    w.getLsbD (k - 1 - leadingEq w b k) = !b := by
  induction k with
  | zero => exact absurd h (Nat.not_lt_zero _)
  | succ k ih =>
    rw [leadingEq] at h ⊢
    split
    case isTrue htop =>
      rw [if_pos htop] at h
      rw [show k + 1 - 1 - (leadingEq w b k + 1) = k - 1 - leadingEq w b k by omega, ih (by omega)]
    case isFalse htop => exact Bool.eq_not.mpr htop

/-- The detector counts the leading bits (R178, R180). -/
theorem leadingRun_leadingEq (w : Word) (b : Bool) : LeadingRun w b (leadingEq w b 16) :=
  ⟨leadingEq_le w b 16, fun _ => getLsbD_of_lt_leadingEq, getLsbD_leadingEq⟩

/-- A word has one number of leading bits. -/
theorem LeadingRun.unique {w : Word} {b : Bool} {n m : Nat} (hn : LeadingRun w b n) (hm : LeadingRun w b m) :
    n = m := by
  have notLonger {n m : Nat} (hn : LeadingRun w b n) (hm : LeadingRun w b m) : ¬ n < m := by
    intro hlt
    obtain ⟨-, -, hstop⟩ := hn
    obtain ⟨hle, hrun, -⟩ := hm
    exact (Bool.eq_not_self b).mp ((hrun n hlt).symm.trans (hstop (Nat.lt_of_lt_of_le hlt hle)))
  exact Nat.le_antisymm (Nat.le_of_not_lt (notLonger hm hn)) (Nat.le_of_not_lt (notLonger hn hm))

/-- The number of leading sign bits of a word, the sign bit itself among them (R178). -/
def signBits (w : Word) : Nat := leadingEq w w.msb 16

theorem leadingRun_signBits (w : Word) : LeadingRun w (w.getLsbD 15) (signBits w) := by
  rw [← BitVec.msb_eq_getLsbD_last]
  exact leadingRun_leadingEq w w.msb

theorem signBits_le (w : Word) : signBits w ≤ 16 := leadingEq_le w w.msb 16

theorem one_le_signBits (w : Word) : 1 ≤ signBits w := by
  obtain ⟨-, -, hstop⟩ := leadingRun_signBits w
  by_contra hzero
  have hfirst := hstop (by omega)
  rw [show signBits w = 0 by omega] at hfirst
  exact (Bool.eq_not_self _).mp hfirst

theorem expHiCode_eq (w : Word) : expHiCode w = 1 - signBits w := rfl

/-- Settles O42: the count of the detector is a leading run, of 1 to 16 bits as the sign bit begins it. -/
theorem exponentDetectorHiCode : Obligations.ExponentDetectorHiCode := by
  unfold Obligations.ExponentDetectorHiCode
  intro w
  have hle := signBits_le w
  have hone := one_le_signBits w
  have hcode := expHiCode_eq w
  exact ⟨signBits w, hone, leadingRun_signBits w, hcode, by omega, by omega⟩

/-! ## EXP -/

theorem State.expWrite_eq (e : Int) (sign : Bool) (s : State) :
    s.expWrite e sign =
      { onSelected (fun b => { b with se := BitVec.ofInt 8 e }) s with
        astat := { s.astat with SS := sign }, idx := s.idx + 1 } := by
  rw [State.expWrite_spec, onSelected_eq_setBank]

/-- Settles O43: the shared write of EXP, of the detector's code and the sign. -/
theorem expHiEffect : Obligations.ExpHiEffect := by
  unfold Obligations.ExpHiEffect
  intro x s
  refine ⟨signBits (s.bank.shX x), one_le_signBits _, leadingRun_signBits _, ?_⟩
  rw [exec_expHi, expHiCode_eq, State.expWrite_eq, BitVec.msb_eq_getLsbD_last]

/-- Settles O44: the detector's two cases by AV. -/
theorem expHixEffect : Obligations.ExpHixEffect := by
  unfold Obligations.ExpHixEffect
  intro x s
  refine ⟨fun hAV => ?_, fun hAV => ?_, _, exec_expHix x s⟩
  · rw [exec_expHix, exec_expHi, hAV]
    rfl
  · rw [exec_expHix, hAV, expHixCode, if_pos rfl, State.expWrite_eq, BitVec.msb_eq_getLsbD_last]
    rfl

/-- Settles O45: the two cases of `seAfterExpLo`; where SE is not loaded the bank is put back as it was. -/
theorem expLoEffect : Obligations.ExpLoEffect := by
  unfold Obligations.ExpLoEffect
  intro x s
  refine ⟨fun hse => ?_, fun hse => ⟨leadingEq (s.bank.shX x) s.astat.SS 16, leadingRun_leadingEq _ _, ?_⟩⟩
  · rw [exec_expLo, seAfterExpLo, if_neg hse]
    exact congrArg _ (congrArg State.advance s.setBank_self)
  · rw [exec_expLo, seAfterExpLo, if_pos hse, onSelected_eq_setBank]
    rfl

/-! ## EXPADJ -/

/-- The exponent compare logic keeps the larger of SB and the exponent, which fits SB's five bits (R182, R195). -/
theorem sbAfter_toInt (w : Word) (sb : BitVec 5) :
    (sbAfter (expHiCode w) sb).toInt = max sb.toInt (1 - signBits w) := by
  have hle := signBits_le w
  have hone := one_le_signBits w
  have hfits : (BitVec.ofInt 5 (expHiCode w)).toInt = 1 - signBits w := by
    rw [expHiCode_eq, BitVec.toInt_ofInt_eq_self (by decide) (by omega) (by omega)]
  rw [sbAfter, apply_ite BitVec.toInt, hfits, expHiCode_eq]
  split <;> omega

theorem exec_expadj_sb (x : ShX) (s : State) :
    ∃ t, exec (.expadj x) s = .next t ∧
      t.bank.sb.toInt = max s.bank.sb.toInt (1 - signBits (s.bank.shX x)) ∧
      t = { onSelected (fun b => { b with sb := t.bank.sb }) s with idx := s.idx + 1 } := by
  refine ⟨_, exec_expadj x s, ?_, ?_⟩ <;> rw [State.advance_bank, State.setBank_bank]
  · exact sbAfter_toInt _ _
  · rw [onSelected_eq_setBank]
    rfl

/-- Settles O46: the larger of the two, by `sbAfter_toInt`. -/
theorem expadjEffect : Obligations.ExpadjEffect := by
  unfold Obligations.ExpadjEffect
  intro x s
  obtain ⟨t, ht, hsb, hframe⟩ := exec_expadj_sb x s
  exact ⟨signBits (s.bank.shX x), t, one_le_signBits _, leadingRun_signBits _, ht, hsb, hframe⟩

/-! ## Block exponent -/

theorem Bank.shX_load (x : ShX) (v : Word) (b : Bank) : (b.load (shXReg x) v).shX x = shLoaded x v := by
  cases x with
  | mr2 =>
    rw [shLoaded, ← BitVec.setWidth_eq_extractLsb' (by decide)]
    rfl
  | si | ar | mr0 | mr1 | sr0 | sr1 => rfl

/-- The exponent of an element shown to EXPADJ (R196). -/
def elementExponent (e : ShX × Word) : Int := 1 - signBits (shLoaded e.1 e.2)

theorem neg_fifteen_le_elementExponent (e : ShX × Word) : -15 ≤ elementExponent e := by
  have hle := signBits_le (shLoaded e.1 e.2)
  rw [elementExponent]
  omega

/-- An element loaded and shown to EXPADJ makes SB the larger of itself and the element's exponent (R195, R196). -/
theorem execList_element (e : ShX × Word) (s : State) :
    ∃ t, execList [.loadimmDreg (shXReg e.1) e.2, .expadj e.1] s = .next t ∧
      t.bank.sb.toInt = max s.bank.sb.toInt (elementExponent e) := by
  have hload := exec_loadimmDreg (shXReg e.1) e.2 s
  have hbank : (s.loadData s.mstat.secReg (shXReg e.1) e.2).advance.bank = s.bank.load (shXReg e.1) e.2 :=
    s.setBank_bank _
  obtain ⟨t, ht, hsb, -⟩ := exec_expadj_sb e.1 (s.loadData s.mstat.secReg (shXReg e.1) e.2).advance
  rw [hbank, Bank.shX_load, Bank.load_sb] at hsb
  exact ⟨t, by rw [execList_cons hload, execList_cons ht, execList_nil], hsb⟩

/-- The elements shown one after the other: SB is at least what it was and every exponent, and is one of these. -/
theorem execList_elements (es : List (ShX × Word)) (s : State) :
    ∃ t, execList (es.flatMap fun e => [.loadimmDreg (shXReg e.1) e.2, .expadj e.1]) s = .next t ∧
      s.bank.sb.toInt ≤ t.bank.sb.toInt ∧ (∀ e ∈ es, elementExponent e ≤ t.bank.sb.toInt) ∧
      (t.bank.sb.toInt = s.bank.sb.toInt ∨ ∃ e ∈ es, t.bank.sb.toInt = elementExponent e) := by
  induction es generalizing s with
  | nil => exact ⟨s, rfl, le_rfl, by simp, .inl rfl⟩
  | cons e es ih =>
    obtain ⟨u, hu, hmax⟩ := execList_element e s
    obtain ⟨t, ht, hge, hall, hattained⟩ := ih u
    refine ⟨t, (execList_append hu _).trans ht, by omega, ?_, ?_⟩
    · rintro e' (_ | ⟨_, he'⟩)
      · omega
      · exact hall e' he'
    · obtain hold | ⟨e', he', hnew⟩ := hattained
      · obtain hs | he : t.bank.sb.toInt = s.bank.sb.toInt ∨ t.bank.sb.toInt = elementExponent e := by omega
        · exact .inl hs
        · exact .inr ⟨e, List.mem_cons_self, he⟩
      · exact .inr ⟨e', List.mem_cons_of_mem e he', hnew⟩

/-- Settles O47, by induction over the elements (`execList_elements`); the −16 that SB starts with is below every
exponent, so an element's exponent has replaced it. -/
theorem blockExponentIsMax : Obligations.BlockExponentIsMax := by
  unfold Obligations.BlockExponentIsMax
  intro es s hne
  have hload := exec_loadimmSreg .sb 0xFFF0 s
  have hstart : (s.loadStatus s.mstat.secReg .sb 0xFFF0).advance.bank.sb.toInt = -16 := by
    rw [State.advance_bank, State.loadStatus_sb, State.setBank_bank]
    rfl
  obtain ⟨t, ht, -, hall, hattained⟩ := execList_elements es (s.loadStatus s.mstat.secReg .sb 0xFFF0).advance
  refine ⟨t, (execList_cons hload _).trans ht, fun e he n hn => ?_, ?_⟩
  · rw [hn.unique (leadingRun_signBits _)]
    exact hall e he
  · obtain hold | ⟨e, he, hsb⟩ := hattained
    · obtain ⟨e, he⟩ := List.exists_mem_of_ne_nil es hne
      have := neg_fifteen_le_elementExponent e
      have := hall e he
      omega
    · exact ⟨e, he, _, leadingRun_signBits _, hsb⟩

end Sys2Proof.Machine
end

section
/-! The single-precision normalize sequence (R199): the array shifts out all sign bits but one, and what is left is
the scaled input. -/

namespace Sys2Proof.Machine

/-! ## The range of a word, by its sign bits -/

/-- A word with leading zeros is small. -/
theorem toNat_lt_of_leadingRun {w : Word} {n : Nat} (h : LeadingRun w false n) : w.toNat < 2 ^ (16 - n) := by
  obtain ⟨-, hrun, -⟩ := h
  refine Nat.lt_pow_two_of_testBit _ fun i hi => ?_
  rw [BitVec.testBit_toNat]
  by_cases hin : i < 16
  · rw [← hrun (15 - i) (by omega), show 15 - (15 - i) = i by omega]
  · exact BitVec.getLsbD_of_ge w i (by omega)

theorem LeadingRun.not {w : Word} {b : Bool} {n : Nat} (h : LeadingRun w b n) : LeadingRun (~~~w) (!b) n := by
  obtain ⟨hle, hrun, hstop⟩ := h
  refine ⟨hle, fun k hk => ?_, fun hn => ?_⟩
  · rw [BitVec.getLsbD_not, hrun k hk, decide_eq_true (by omega), Bool.true_and]
  · rw [BitVec.getLsbD_not, hstop hn, decide_eq_true (by omega), Bool.true_and]

/-- Each sign bit but the first halves the range of the numbers (R178). -/
theorem toInt_bounds_of_signBits (w : Word) :
    -2 ^ (16 - signBits w) ≤ w.toInt ∧ w.toInt < 2 ^ (16 - signBits w) := by
  have hrun := leadingRun_signBits w
  have hw := word_toInt_cases w
  cases hneg : w.getLsbD 15 with
  | false =>
    rw [hneg] at hrun
    rw [getLsbD_last_eq, decide_eq_false_iff_not] at hneg
    have hlt : (w.toNat : Int) < 2 ^ (16 - signBits w) := mod_cast toNat_lt_of_leadingRun hrun
    omega
  | true =>
    rw [hneg] at hrun
    rw [getLsbD_last_eq, decide_eq_true_iff] at hneg
    have hlt : ((~~~w).toNat : Int) < 2 ^ (16 - signBits w) := mod_cast toNat_lt_of_leadingRun hrun.not
    rw [BitVec.toNat_not] at hlt
    omega

/-! ## The array without the sign bits -/

/-- Upshifted (HI), the input loses the extension bit and keeps its twos-complement value, cut to 32 bits (R172). -/
theorem shifterArray_hi_natCast (w : Word) (k : Nat) (x : Bool) :
    shifterArray w k .hi x = BitVec.ofInt 32 (w.toInt * 2 ^ (16 + k)) := by
  obtain ⟨q, hq⟩ : ∃ q : Int, (w.toNat : Int) = w.toInt + q * 65536 := by
    obtain ⟨-, h⟩ | ⟨-, h⟩ := word_toInt_cases w
    · exact ⟨0, by omega⟩
    · exact ⟨1, by omega⟩
  have hexp : ((k : Int) + hiLoPlace .hi).toNat = 16 + k := by
    rw [hiLoPlace]
    omega
  have hsplit (e : Int) : (e * 65536 + (w.toInt + q * 65536)) * 2 ^ (16 + k) =
      w.toInt * 2 ^ (16 + k) + (e + q) * 2 ^ k * 2 ^ 32 := by
    rw [pow_add]
    ring
  rw [shifterArray_eq, scaleFloor, if_pos (by rw [hiLoPlace]; omega), hexp, hq, hsplit, ofInt_add_mul_two_pow]

/-- Upshifted by one less than its number of sign bits, the input still fits SR (R178, R199). -/
theorem shifterArray_normalized_toInt (w : Word) (x : Bool) :
    (shifterArray w (signBits w - 1 : Nat) .hi x).toInt = w.toInt * 2 ^ (16 + (signBits w - 1)) := by
  obtain ⟨hlow, hhigh⟩ := toInt_bounds_of_signBits w
  have hle := signBits_le w
  have hone := one_le_signBits w
  have hpow : (2 : Int) ^ 31 = 2 ^ (16 - signBits w) * 2 ^ (16 + (signBits w - 1)) := by
    rw [← pow_add]
    congr 1
    omega
  have hpos : (0 : Int) < 2 ^ (16 + (signBits w - 1)) := by positivity
  rw [shifterArray_hi_natCast]
  apply BitVec.toInt_ofInt_eq_self (by decide)
  · rw [hpow, ← neg_mul]
    gcongr
  · rw [hpow]
    gcongr

/-- All sixteen bits are sign bits only of 0 and −1. -/
theorem getLsbD_of_signBits_eq {w : Word} (hw : w ≠ 0) (h : signBits w = 16) : w.getLsbD 15 = true := by
  obtain ⟨-, hhigh⟩ := toInt_bounds_of_signBits w
  have hne : w.toInt ≠ 0 := fun hzero => hw (BitVec.eq_of_toInt_eq hzero)
  rw [h] at hhigh
  rw [getLsbD_last_eq, decide_eq_true_iff]
  omega

/-- Only one sign bit is then left, unless the input is 0 (R199). -/
theorem shifterArray_normalized_sign {w : Word} (hw : w ≠ 0) (x : Bool) :
    (shifterArray w (signBits w - 1 : Nat) .hi x).getLsbD 31 = w.getLsbD 15 ∧
      (shifterArray w (signBits w - 1 : Nat) .hi x).getLsbD 30 = !w.getLsbD 15 := by
  have hone := one_le_signBits w
  obtain ⟨hle, hrun, hstop⟩ := leadingRun_signBits w
  rw [shifterArrayBits _ _ _ _ 31 (by decide), shifterArrayBits _ _ _ _ 30 (by decide), arrayBit_eq, arrayBit_eq,
    hiLoPlace]
  refine ⟨?_, ?_⟩
  · rw [if_neg (by omega), if_pos (by omega), ← hrun (signBits w - 1) (by omega)]
    congr 1
    omega
  · by_cases hall : signBits w < 16
    · rw [if_neg (by omega), if_pos (by omega), ← hstop hall]
      congr 1
      omega
    · rw [if_pos (by omega), getLsbD_of_signBits_eq hw (by omega), Bool.not_true]

/-! ## The sequence -/

/-- EXP (HI) leaves SE ready for NORM (HI): its negation upshifts all sign bits but one out (R178, R192, D33). -/
theorem State.expWrite_expHiCode_se (w : Word) (sign : Bool) (s : State) :
    -(s.expWrite (expHiCode w) sign).bank.se.toInt = (signBits w - 1 : Nat) := by
  have hle := signBits_le w
  have hone := one_le_signBits w
  have hse : (s.expWrite (expHiCode w) sign).bank.se = BitVec.ofInt 8 (expHiCode w) := by
    rw [State.expWrite, State.advance_bank, State.withAstat_bank, State.setBank_bank]
  rw [hse, expHiCode_eq, BitVec.toInt_ofInt_eq_self (by decide) (by omega) (by omega)]
  omega

/-- EXP writes no register that the shifter reads as its input (R171, R192). -/
theorem State.expWrite_shX (e : Int) (sign : Bool) (x : ShX) (s : State) :
    (s.expWrite e sign).bank.shX x = s.bank.shX x := by
  rw [State.expWrite, State.advance_bank, State.withAstat_bank, State.setBank_bank]
  cases x <;> rfl

/-- NORM (HI) where SE asks for an upshift of less than a word's width (R190). -/
theorem exec_normHi_sr {x : ShX} {t : State} {k : Nat} (hk : k < 16) (hse : -t.bank.se.toInt = k) :
    ∃ u, exec (.normHi x) t = .next u ∧
      u.bank.sr = shifterArray (t.bank.shX x) k .hi (normExt .hi t.astat.AC) :=
  ⟨_, (exec_normTerm false .hi x t).trans (State.normStep_eq (by omega) false .hi x), by
    rw [State.shiftWrite_sr, hse]
    rfl⟩

/-- Settles O48: EXP (HI) finds the upshift after which the array still holds the input and
one sign bit. -/
theorem normalizeRemovesSignBits : Obligations.NormalizeRemovesSignBits := by
  unfold Obligations.NormalizeRemovesSignBits
  intro x s t ht
  rw [exec_expHi] at ht
  obtain rfl := Host.Outcome.next.inj ht
  have hle := signBits_le (s.bank.shX x)
  have hse := State.expWrite_expHiCode_se (s.bank.shX x) (s.bank.shX x).msb s
  obtain ⟨u, hu, hsr⟩ := exec_normHi_sr (x := x) (by omega) hse
  rw [State.expWrite_shX] at hsr
  refine ⟨State.expWrite_shX .., u, hu, ?_, fun hw => ?_⟩ <;> rw [hsr]
  · rw [hse]
    exact shifterArray_normalized_toInt _ _
  · obtain ⟨htop, hnext⟩ := shifterArray_normalized_sign hw _
    rw [htop, hnext]
    exact Bool.self_ne_not _

end Sys2Proof.Machine
end

section
/-! The obligations of 44_register_transfer.md: a MOVE is a read of the bus followed by a load of what was read
(R211), and a load takes up again what a read of the same register drove. -/

namespace Sys2Proof.Machine

/-! ## A MOVE runs as a load -/

/-- A MOVE of a source that drives `w`, into a register with the load access (R211). -/
theorem exec_move_eq_next {dst src : Reg} {w : Word} {s u : State} (hread : s.dmdRead src = some w)
    (hload : s.dmdLoad dst w = some u) : exec (.move dst src) s = .next u.advance := by
  simp only [exec_move, execMove, hread, hload]

/-- Settles O53: a readable source drives some word, and the two constant loads of that word are the load a MOVE
makes. -/
theorem moveIsReadThenLoad : Obligations.MoveIsReadThenLoad := by
  unfold Obligations.MoveIsReadThenLoad
  intro src s hsrc
  obtain ⟨w, hread⟩ := State.dmdRead_of_readable hsrc s
  exact ⟨w, hread, fun d => ⟨_, exec_move_eq_next hread rfl, exec_loadimmDreg d w s⟩,
    fun d => ⟨_, exec_move_eq_next hread rfl, exec_loadimmSreg d w s⟩⟩

/-! ## A load takes up what a read drove -/

/-- A data register loaded with what it drives keeps its value, the narrow ones because their load drops the sign
extension again (R42, R44). MR1 is left out, as its load sets MR2 beside it (R43). -/
theorem Bank.load_read_self {r : DReg} (hr : r ≠ .mr1) (b : Bank) : b.load r (b.read r) = b := by
  cases r
  case mr1 => exact absurd rfl hr
  case mr2 => simp [Bank.load, Bank.read, setWidth_signExtend]
  case se => simp [Bank.load, Bank.read, setWidth_signExtend]
  all_goals rfl

/-- A register other than MR1, loaded with what it drives, leaves the state as it was (R42, R44; ASTAT by R30). -/
theorem State.dmdLoad_of_dmdRead {r : Reg} (hr : r ≠ .data .mr1) {w : Word} {s : State}
    (hread : s.dmdRead r = some w) : s.dmdLoad r w = some s := by
  cases r with
  | data r =>
    obtain rfl := Option.some.inj hread
    rw [State.dmdLoad_data, Bank.load_read_self (fun h => hr (congrArg Reg.data h)), State.setBank_self]
  | status r =>
    cases r with
    | astat =>
      obtain rfl := Option.some.inj hread
      simp [State.dmdLoad, State.dmdLoadAt, State.loadStatus, astatOfWord_wordOfAstat]
    | mstat => cases hread
    | sb =>
      obtain rfl := Option.some.inj hread
      have hlow : (s.bank.sb.signExtend 16).extractLsb' 0 5 = s.bank.sb := by
        rw [← BitVec.setWidth_eq_extractLsb' (by decide), setWidth_signExtend (by decide)]
      calc s.dmdLoad (.status .sb) (s.bank.sb.signExtend 16)
          = some (s.setBank { s.bank with sb := (s.bank.sb.signExtend 16).extractLsb' 0 5 }) :=
            congrArg some (s.loadStatus_sb _)
        _ = some s := by rw [hlow, State.setBank_self]
  | af => cases hread
  | mf => cases hread

/-- Settles O55: the load puts back what the read drove, and only the position moves on. -/
theorem moveToSelf : Obligations.MoveToSelf := by
  unfold Obligations.MoveToSelf
  intro r s hreadable hr
  obtain ⟨w, hread⟩ := State.dmdRead_of_readable hreadable s
  exact exec_move_eq_next hread (State.dmdLoad_of_dmdRead hr hread)

end Sys2Proof.Machine
end

section
/-! The obligation of 60_exceptions.md: whatever an instruction cannot do, it refuses; none raises an exception
(R220). -/

namespace Sys2Proof.Machine

/-- An instruction that is no term of the spec is refused: a DIVS with AY0 (R57, D29), or a MOVE with a register
that lacks the access (R45, U13). -/
theorem exec_refused_of_not_isTerm {i : Instr} (h : i.isTerm = false) (s : State) :
    ∃ r, exec i s = .refused r := by
  cases i
  case divs y x =>
    obtain ⟨-, hrefused⟩ := divsEffect y x s
    exact ⟨_, hrefused (by simpa [Instr.isTerm] using h)⟩
  case move dst src =>
    obtain ⟨hsource, hdestination⟩ := moveWithoutAccessRefused dst src s
    cases hsrc : src.readable with
    | false => exact ⟨_, hsource hsrc⟩
    | true => exact ⟨_, hdestination hsrc (by simpa [Instr.isTerm, hsrc] using h)⟩
  all_goals cases h

/-- A term goes on to a next state, NORM at SE = −128 apart, which is refused (R181). -/
theorem exec_next_or_refused_of_isTerm {i : Instr} (h : i.isTerm = true) (s : State) :
    (∃ t, exec i s = .next t) ∨ ∃ r, exec i s = .refused r := by
  obtain ⟨hruns, hrefused⟩ := everyTermExecutes i s h
  by_cases hnorm : s.bank.se ≠ 0x80 ∨ ∀ orSr hl x, i ≠ normTerm orSr hl x
  · exact .inl (hruns hnorm)
  · push Not at hnorm
    obtain ⟨hse, orSr, hl, x, hi⟩ := hnorm
    exact .inr ⟨_, hrefused hse orSr hl x hi⟩

/-- The two ways an instruction can end: in a next state or in a refusal. -/
theorem exec_next_or_refused (i : Instr) (s : State) :
    (∃ t, exec i s = .next t) ∨ ∃ r, exec i s = .refused r := by
  cases h : i.isTerm with
  | true => exact exec_next_or_refused_of_isTerm h s
  | false => exact .inr (exec_refused_of_not_isTerm h s)

/-- Settles O12: a next state or a refusal (`exec_next_or_refused`) is no fault. -/
theorem noInstructionFaults : Obligations.NoInstructionFaults := by
  unfold Obligations.NoInstructionFaults
  intro i s f hfault
  obtain ⟨t, hnext⟩ | ⟨r, hrefused⟩ := exec_next_or_refused i s
  · cases hfault.symm.trans hnext
  · cases hfault.symm.trans hrefused

end Sys2Proof.Machine
end

section
/-! The obligation of 70_reset_and_hazards.md: R235 gives no reset, so what a run from reset begins with is the
model's own choice (log 2, log 3). -/

namespace Sys2Proof.Machine

/-- A state at position 0 begins a run of the list it holds, whatever its parameters and its BIASRND (R34). -/
theorem State.inRun_of_idx_zero {s : State} (h : s.idx = 0) : s.InRun s.prog s.config s.biasrnd where
  prog_eq := rfl
  config_eq := rfl
  biasrnd_eq := rfl
  idx_le := h ▸ Nat.zero_le _

/-- Reset puts the position at the start of the list (R34). -/
@[simp] theorem State.reset_idx : State.reset.idx = 0 := rfl

/-- Settles O9: reset is at position 0, so it begins a run (`State.inRun_of_idx_zero`) of what it holds: the empty
list, the default parameters and BIASRND clear. -/
theorem resetInRun : Obligations.ResetInRun := by
  unfold Obligations.ResetInRun
  exact ⟨State.inRun_of_idx_zero State.reset_idx, State.reset_idx⟩

end Sys2Proof.Machine
end
